-- ==== Sys2Proof/Word.lean ====
section
/-! DEFINITION. The widths of the block's values: bytes, 16-bit checksums and operation words, 32-bit identifiers
(00_scope.md R15). Bit 0 is the least significant bit. -/

namespace Sys2Proof

/-- An unsigned 8-bit value (00_scope.md R15). -/
abbrev Byte := BitVec 8

/-- A 16-bit value: a checksum (R21) or an operation word (R90). -/
abbrev Word16 := BitVec 16

/-- A 32-bit value: an identifier (R28, R86) or the pattern of a four-byte payload (R203, R204). -/
abbrev Word32 := BitVec 32

end Sys2Proof
end

