-- ==== Sys2Proof/Config.lean ====
section
/-! DEFINITION. What is fixed when the block is built (00_scope.md R6 to R14; 10_state.md R36), and the free values
of the machine: constants with no body, of which nothing can be proved but that they exist. -/

namespace Sys2Proof.Config

/-- The start marker (R6). -/
def START : Byte := 0x2B

/-- The escape marker (R6). -/
def ESC : Byte := 0x2D

/-- The checksum's polynomial, x^16 implicit (R7). -/
def POLY : Word16 := 0x1021

/-- The checksum's initial value (R7). -/
def INIT : Word16 := 0xFFFF

/-- The identifier's bytes on the wire (R8). -/
def ID_BYTES : Nat := 4

/-- LEN = payload length + LEN_BIAS (R8). -/
def LEN_BIAS : Nat := 4

/-- The largest payload, in bytes (R9). -/
def MAX_PAYLOAD : Nat := 251

/-- The longest frame, in wire bytes: every logical byte escaped (R14). -/
def MAX_FRAME : Nat := 519

/-- What the decoder does with a LEN byte below LEN_BIAS (R13). -/
inductive ShortLenPolicy where
  | reject
  | treatAsZero
  deriving DecidableEq, Repr

/-- The four parameters a model may take as an argument (R10 to R13; 92_eei_decisions.md D4 to D7). -/
structure Params where
  /-- EXT_CODE, the Extension command's code (R10). -/
  extCode : Byte
  /-- ACCEPT_CMD_ZERO, whether the decoder accepts command 0x00 (R11). -/
  acceptCmdZero : Bool
  /-- ESCAPE_CRC, whether the encoder escapes the two CRC bytes (R12). -/
  escapeCrc : Bool
  /-- SHORT_LEN_POLICY (R13). -/
  shortLen : ShortLenPolicy
  deriving DecidableEq, Repr

/-- EXT_CODE is none of 0x00..0x08 (R10). -/
def Params.legal (P : Params) : Bool := decide (0x08 < P.extCode.toNat)

/-- The spec's values (R10 to R13). UNVERIFIED against a device: log 8. -/
def params : Params where
  extCode := 0x3C
  acceptCmdZero := true
  escapeCrc := true
  shortLen := .reject

/-! The free values: what the registers that RESET leaves unspecified hold after it (10_state.md R47, log 4), and what
`out_byte` shows while `out_valid = 0` (R44, log 10). Each is applied to State's counter `freeCtr`. -/

opaque freeEncCrc : Nat → Word16
opaque freeEncPar : Nat → Bool
opaque freeDecCmd : Nat → Byte
opaque freeDecLen : Nat → Byte
opaque freeDecPlen : Nat → Byte
opaque freeDecId : Nat → Word32
opaque freeDecDbuf : Nat → Vector Byte 251
opaque freeDecIdx : Nat → Byte
opaque freeDecRxcrcHi : Nat → Byte
opaque freeDecCrc : Nat → Word16
opaque freeDecPar : Nat → Bool
opaque freeOutByte : Nat → Byte

end Sys2Proof.Config
end

