-- ==== Sys2Proof/Syntax.lean ====
section
/-! DEFINITION. The instructions: one constructor per row of spec/opcode_table.json, the Datagram and request they
carry, and the forms in which an instruction reaches the machine. -/

namespace Sys2Proof

/-- One decoded protocol message (00_scope.md glossary; R98). The payload of a frame's Datagram holds
0 to 251 bytes (`validDatagram`, `State.Inv`); an accessor runs on a longer one too (log 20). -/
structure Datagram where
  cmd : Byte
  id : Word32
  payload : List Byte
  deriving DecidableEq, Repr

/-- The Datagram operand of ENC.BUILD as the request port gives it (10_state.md R43): `data` lists
`req_data[0 .. req_plen − 1]`, at most the 251 bytes that exist. `plen` may be 252..255, which R120 calls invalid. -/
structure Request where
  cmd : Byte
  id : Word32
  plen : Byte
  data : List Byte
  deriving DecidableEq, Repr

/-- The signals `req_cmd`, `req_id`, `req_plen`, `req_data[0..250]` (R43). -/
structure ReqPort where
  cmd : Byte
  id : Word32
  plen : Byte
  data : Vector Byte 251
  deriving DecidableEq, Repr

/-- The closed enumeration of the defined commands (30_encoding.md R87). -/
inductive Command where
  | read
  | write
  | longWrite
  | reserved1
  | response
  | longResponse
  | reserved2
  | readPeriodically
  | extension
  deriving DecidableEq, Repr

/-- The typed payload accessors (43_payload_accessors.md R205: no other exists). -/
inductive Accessor where
  | u8
  | u16
  | i32
  | f32
  deriving DecidableEq, Repr

/-- One constructor per row of spec/opcode_table.json: the ten operations of R91, the ten command bytes of R87 and
R88 (log 5), the four host accessors of R201 to R204 (log 6). -/
inductive Instr where
  | idle
  | reset
  | ckReset
  | ckUpdate (b : Byte)
  | ckFinish
  | encReset
  | encBuild (r : Request)
  | encEmit
  | decReset
  | decByte (b : Byte)
  | cmdRead
  | cmdWrite
  | cmdLongWrite
  | cmdReserved1
  | cmdResponse
  | cmdLongResponse
  | cmdReserved2
  | cmdReadPeriodically
  | cmdExtension
  | cmdZero
  | asU8 (dg : Datagram)
  | asU16 (dg : Datagram)
  | asI32 (dg : Datagram)
  | asF32 (dg : Datagram)
  deriving DecidableEq, Repr

/-- The forms in which an instruction reaches the machine. There is no instruction memory (R34, R76): an operation
word arrives with whatever the request port shows (R90), a wire byte arrives on the decoder input (R41), an accessor
is a call of the host's (43_payload_accessors.md). -/
inductive Code where
  | op (w : Word16) (port : ReqPort)
  | wire (b : Byte)
  | call (f : Accessor) (dg : Datagram)
  deriving DecidableEq, Repr

/-- Why the decoder of operation words rejects a form (R92). -/
inductive Reject where
  | reservedOpcode (w : Word16)
  | reservedImm8 (w : Word16)
  deriving DecidableEq, Repr

end Sys2Proof
end

