-- ==== Sys2Proof/WellFormed.lean ====
section
/-! DEFINITION. Which instructions are well-formed: the checks that the types of Syntax.lean leave open. -/

namespace Sys2Proof

/-- A request lists `req_data[0 .. req_plen − 1]`, as far as the port's 251 data bytes go (R43). -/
def Request.wellFormed (r : Request) : Bool :=
  decide (r.data.length = min r.plen.toNat Config.MAX_PAYLOAD)

/-- An instruction is well-formed when its operand is. An accessor's operand is any payload (log 20). -/
def Instr.wellFormed : Instr → Bool
  | .encBuild r => r.wellFormed
  | .idle | .reset | .ckReset | .ckUpdate _ | .ckFinish | .encReset | .encEmit | .decReset | .decByte _
  | .cmdRead | .cmdWrite | .cmdLongWrite | .cmdReserved1 | .cmdResponse | .cmdLongResponse | .cmdReserved2
  | .cmdReadPeriodically | .cmdExtension | .cmdZero | .asU8 _ | .asU16 _ | .asI32 _ | .asF32 _ => true

end Sys2Proof
end

