-- ==== Sys2Proof/Decode.lean ====
section
/-! DEFINITION. From the forms of Syntax.lean to instructions and back: the operation map of 30_encoding.md R91 with its
reserved words (R92), the command codes (R87), and the encoder written from the same tables. -/

namespace Sys2Proof

/-- `op[15:8]`, the opcode of an operation word (R90). -/
def opcodeOf (w : Word16) : Byte := w.extractLsb' 8 8

/-- `op[7:0]`, the byte operand of an operation word (R90). -/
def imm8Of (w : Word16) : Byte := w.extractLsb' 0 8

/-- The operation word of an opcode and a byte operand (R90). -/
def opWord (opcode imm8 : Byte) : Word16 := opcode ++ imm8

/-- The request the port shows: the bytes `req_data[0 .. req_plen − 1]` that exist (R43). -/
def ReqPort.request (p : ReqPort) : Request :=
  { cmd := p.cmd, id := p.id, plen := p.plen, data := p.data.toList.take p.plen.toNat }

/-- The port signals of a request, with zero in the data bytes that the request does not use. -/
def Request.port (r : Request) : ReqPort :=
  { cmd := r.cmd, id := r.id, plen := r.plen, data := Vector.ofFn fun i => r.data.getD i 0 }

/-- A request port with nothing on it, for the operations that do not look at it. -/
def ReqPort.quiet : ReqPort := { cmd := 0, id := 0, plen := 0, data := Vector.replicate 251 0 }

/-- A request port that presents the Datagram (Read, identifier 0, empty payload): what `decodeTableWord` and
`State.withFetchWord` take the host to present, since the Datagram is no part of the word (R90) and the host must
present only a valid request (R48). DESIGN CHOICE: log 15. -/
def ReqPort.readZero : ReqPort := { ReqPort.quiet with cmd := 0x01 }

/-- The code of each defined command (R87), EXT_CODE being a parameter (R10). -/
def Command.code (P : Config.Params) : Command → Byte
  | .read => 0x01
  | .write => 0x02
  | .longWrite => 0x03
  | .reserved1 => 0x04
  | .response => 0x05
  | .longResponse => 0x06
  | .reserved2 => 0x07
  | .readPeriodically => 0x08
  | .extension => P.extCode

/-- The nine defined commands (R87). -/
def Command.all : List Command :=
  [.read, .write, .longWrite, .reserved1, .response, .longResponse, .reserved2, .readPeriodically, .extension]

/-- The row of a "must be 0x00" operation: any other `imm8` makes the word reserved (R91, R92). -/
def fixedRow (w : Word16) (i : Instr) : Except Reject Instr :=
  if imm8Of w = 0x00 then .ok i else .error (.reservedImm8 w)

/-- The operation map (R91): an exact match on `op[15:8]`; every other opcode is reserved (R92). -/
def decodeOp (w : Word16) (port : ReqPort) : Except Reject Instr :=
  match opcodeOf w with
  | 0x00#8 => fixedRow w .idle
  | 0x01#8 => fixedRow w .reset
  | 0x10#8 => fixedRow w .ckReset
  | 0x11#8 => .ok (.ckUpdate (imm8Of w))
  | 0x12#8 => fixedRow w .ckFinish
  | 0x20#8 => fixedRow w .encReset
  | 0x21#8 => fixedRow w (.encBuild port.request)
  | 0x22#8 => fixedRow w .encEmit
  | 0x30#8 => fixedRow w .decReset
  | 0x31#8 => .ok (.decByte (imm8Of w))
  | _ => .error (.reservedOpcode w)

/-- The command rows of the opcode table as instructions. -/
def Command.instr : Command → Instr
  | .read => .cmdRead
  | .write => .cmdWrite
  | .longWrite => .cmdLongWrite
  | .reserved1 => .cmdReserved1
  | .response => .cmdResponse
  | .longResponse => .cmdLongResponse
  | .reserved2 => .cmdReserved2
  | .readPeriodically => .cmdReadPeriodically
  | .extension => .cmdExtension

/-- A byte on the decoder input (R41): a command code is its row of the table (R87), 0x00 is CMD.Zero (R88), and any
other byte is DEC.BYTE of it (R150; log 19). -/
def decodeWire (P : Config.Params) (b : Byte) : Instr :=
  match Command.all.find? (fun c => c.code P == b) with
  | some c => c.instr
  | none => if b = 0x00 then .cmdZero else .decByte b

/-- An accessor call as an instruction. -/
def Accessor.instr : Accessor → Datagram → Instr
  | .u8, dg => .asU8 dg
  | .u16, dg => .asU16 dg
  | .i32, dg => .asI32 dg
  | .f32, dg => .asF32 dg

/-- The decoder: total, rejecting by name. -/
def decode : Code → Except Reject Instr
  | .op w port => decodeOp w port
  | .wire b => .ok (decodeWire Config.params b)
  | .call f dg => .ok (f.instr dg)

/-- The encoder, from the same tables (R87, R90, R91). -/
def encode : Instr → Code
  | .idle => .op (opWord 0x00 0x00) .quiet
  | .reset => .op (opWord 0x01 0x00) .quiet
  | .ckReset => .op (opWord 0x10 0x00) .quiet
  | .ckUpdate b => .op (opWord 0x11 b) .quiet
  | .ckFinish => .op (opWord 0x12 0x00) .quiet
  | .encReset => .op (opWord 0x20 0x00) .quiet
  | .encBuild r => .op (opWord 0x21 0x00) r.port
  | .encEmit => .op (opWord 0x22 0x00) .quiet
  | .decReset => .op (opWord 0x30 0x00) .quiet
  | .decByte b => .op (opWord 0x31 b) .quiet
  | .cmdRead => .wire (Command.read.code Config.params)
  | .cmdWrite => .wire (Command.write.code Config.params)
  | .cmdLongWrite => .wire (Command.longWrite.code Config.params)
  | .cmdReserved1 => .wire (Command.reserved1.code Config.params)
  | .cmdResponse => .wire (Command.response.code Config.params)
  | .cmdLongResponse => .wire (Command.longResponse.code Config.params)
  | .cmdReserved2 => .wire (Command.reserved2.code Config.params)
  | .cmdReadPeriodically => .wire (Command.readPeriodically.code Config.params)
  | .cmdExtension => .wire (Command.extension.code Config.params)
  | .cmdZero => .wire 0x00
  | .asU8 dg => .call .u8 dg
  | .asU16 dg => .call .u16 dg
  | .asI32 dg => .call .i32 dg
  | .asF32 dg => .call .f32 dg

/-- A row of opcode_table.json: its mnemonic, the bits it fixes and their values. -/
structure TableRow where
  mnemonic : String
  pattern : Nat
  mask : Nat
  deriving DecidableEq, Repr

/-- The rows of format OP16 of opcode_table.json, as the file gives them. -/
def op16Rows : List TableRow :=
  [⟨"IDLE", 0x0000, 0xFFFF⟩, ⟨"RESET", 0x0100, 0xFFFF⟩, ⟨"CK.RESET", 0x1000, 0xFFFF⟩, ⟨"CK.UPDATE", 0x1100, 0xFF00⟩,
   ⟨"CK.FINISH", 0x1200, 0xFFFF⟩, ⟨"ENC.RESET", 0x2000, 0xFFFF⟩, ⟨"ENC.BUILD", 0x2100, 0xFFFF⟩,
   ⟨"ENC.EMIT", 0x2200, 0xFFFF⟩, ⟨"DEC.RESET", 0x3000, 0xFFFF⟩, ⟨"DEC.BYTE", 0x3100, 0xFF00⟩]

/-- The rows of format CMD8 of opcode_table.json, as the file gives them. -/
def cmd8Rows : List TableRow :=
  [⟨"CMD.Read", 0x01, 0xFF⟩, ⟨"CMD.Write", 0x02, 0xFF⟩, ⟨"CMD.LongWrite", 0x03, 0xFF⟩, ⟨"CMD.Reserved1", 0x04, 0xFF⟩,
   ⟨"CMD.Response", 0x05, 0xFF⟩, ⟨"CMD.LongResponse", 0x06, 0xFF⟩, ⟨"CMD.Reserved2", 0x07, 0xFF⟩,
   ⟨"CMD.ReadPeriodically", 0x08, 0xFF⟩, ⟨"CMD.Extension", 0x3C, 0xFF⟩, ⟨"CMD.Zero", 0x00, 0xFF⟩]

/-- Whether a word is one of a row's words. -/
def TableRow.holds (r : TableRow) (w : Nat) : Bool := Nat.land w r.mask == r.pattern

/-- The mnemonic of an instruction, as opcode_table.json spells it. -/
def Instr.mnemonic : Instr → String
  | .idle => "IDLE"
  | .reset => "RESET"
  | .ckReset => "CK.RESET"
  | .ckUpdate _ => "CK.UPDATE"
  | .ckFinish => "CK.FINISH"
  | .encReset => "ENC.RESET"
  | .encBuild _ => "ENC.BUILD"
  | .encEmit => "ENC.EMIT"
  | .decReset => "DEC.RESET"
  | .decByte _ => "DEC.BYTE"
  | .cmdRead => "CMD.Read"
  | .cmdWrite => "CMD.Write"
  | .cmdLongWrite => "CMD.LongWrite"
  | .cmdReserved1 => "CMD.Reserved1"
  | .cmdResponse => "CMD.Response"
  | .cmdLongResponse => "CMD.LongResponse"
  | .cmdReserved2 => "CMD.Reserved2"
  | .cmdReadPeriodically => "CMD.ReadPeriodically"
  | .cmdExtension => "CMD.Extension"
  | .cmdZero => "CMD.Zero"
  | .asU8 _ => "AS.U8"
  | .asU16 _ => "AS.U16"
  | .asI32 _ => "AS.I32"
  | .asF32 _ => "AS.F32"

/-- The form in which a row's word reaches the machine: 16 bits are an operation word, 8 bits a byte on the decoder
input. The table has words of no other width. -/
def tableCode (nbits w : Nat) : Option Code :=
  if nbits = 16 then some (.op (BitVec.ofNat 16 w) .readZero)
  else if nbits = 8 then some (.wire (BitVec.ofNat 8 w))
  else none

/-- What the decoder reads from a table row's word. -/
def decodeTableWord (nbits w : Nat) : Option Instr :=
  match tableCode nbits w with
  | some c => (decode c).toOption
  | none => none

end Sys2Proof
end

