-- ==== Sys2Proof/Machine/State.lean ====
section
/-! DEFINITION. The state of the machine: the three units' registers (10_state.md R20 to R32), the output sequences a run
shows (R49), the port activity still to come, and the state after reset (R47). -/

namespace Sys2Proof.Machine

/-- A checksum instance K (R21): the accumulator `K.crc` and the parity flag `K.par`. -/
structure Ck where
  crc : Word16
  par : Bool
  deriving DecidableEq, Repr

/-- The encoder (R22): its checksum instance and the output queue `ENC.EQ`, head first. -/
structure Enc where
  ck : Ck
  EQ : List Byte
  deriving DecidableEq, Repr

/-- The values of `DEC.dstate`, in the order of their codes 0 to 10 (R23). -/
inductive DState where
  | awaitingStart
  | awaitingCmd
  | awaitingLen
  | awaitingId0
  | awaitingId1
  | awaitingId2
  | awaitingId3
  | awaitingData
  | awaitingCrc0
  | awaitingCrc1
  | done
  deriving DecidableEq, Repr

/-- The decoder (R23 to R32). -/
structure Dec where
  dstate : DState
  esc : Bool
  cmd : Byte
  len : Byte
  plen : Byte
  id : Word32
  DBUF : Vector Byte 251
  idx : Byte
  rxcrcHi : Byte
  ck : Ck
  deriving DecidableEq, Repr

/-- The decode events of the model's trace (60_exceptions.md R301), with the info each records. -/
inductive Event where
  | badCmd (b : Byte)
  | shortLen (b : Byte)
  | crcMismatch (received computed : Word16)
  | frameAbandoned (st : DState)
  deriving DecidableEq, Repr

/-- What a payload accessor returns (43_payload_accessors.md R200): `Ok(v)` of its type, or `Err(WRONG_LENGTH)`. A
binary32 value is carried as its pattern (R204). -/
inductive AccResult where
  | okU8 (v : Nat)
  | okU16 (v : Nat)
  | okI32 (v : Int)
  | okF32 (pattern : Word32)
  | wrongLength
  deriving DecidableEq, Repr

/-- The input signals of one clock cycle: those R40, R41, R43, R44 and R45 give. None of them carries ENC.RESET or
DEC.RESET, and the model adds none: these two arrive as operation words only (DESIGN CHOICE, log 26). -/
structure PortIn where
  rst : Bool
  inValid : Bool
  inByte : Byte
  reqValid : Bool
  req : ReqPort
  outReady : Bool
  ckOp : BitVec 2
  ckByte : Byte
  deriving DecidableEq, Repr

/-- One piece of port activity to come: an operation, or a clock cycle's signals. -/
inductive Input where
  | code (c : Code)
  | cycle (p : PortIn)
  deriving DecidableEq, Repr

/-- Why a step stops with a fault. No constructor: the block raises no exception and nothing it does stops it
(60_exceptions.md R300). -/
inductive Fault where
  deriving DecidableEq, Repr

/-- Why the model gives an operation no meaning (60_exceptions.md R309). A refusal is safe: no claim about the run can
be proved from it. -/
inductive Refusal where
  /-- Raised by an arm of `exec` for an instruction with no meaning yet. Safe. -/
  | notModelled (mnemonic : String)
  /-- `refuse(ReservedOp)`: raised by `step` on a reserved operation word (30_encoding.md R92). Safe. -/
  | reservedOp (w : Word16)
  /-- `refuse(InvalidRequest)`: raised by ENC.BUILD on an invalid request (41_encoder.md R124). Safe. -/
  | invalidRequest
  deriving DecidableEq, Repr

/-- The state of the machine. -/
structure State where
  /-- `CKS`, the standalone checksum instance (R21). -/
  cks : Ck
  /-- `ck_result` (R45). -/
  ckResult : Word16
  /-- `ENC` (R22). -/
  enc : Enc
  /-- `DEC` (R23 to R32). -/
  dec : Dec
  /-- `dg_valid` in the cycle just performed (R42; log 9). -/
  dgValid : Bool
  /-- The Datagrams emitted so far, in order (R49). -/
  emitted : List Datagram
  /-- The bytes the encoder has put out so far, in order (R49). -/
  sent : List Byte
  /-- The values CK.FINISH has returned so far, in order (R49). -/
  finished : List Word16
  /-- The decode events so far, in order (R301); on no port (R306). -/
  events : List Event
  /-- The results of the host's accessor calls so far, in order (log 6). -/
  accessed : List AccResult
  /-- The port activity to come, oldest first (log 1). -/
  pending : List Input
  /-- The model's own: what the free values of Config are applied to (log 4). -/
  freeCtr : Nat
  deriving DecidableEq, Repr

/-- The state after reset (R47). The registers that R47 leaves unspecified hold zero: DESIGN CHOICE, log 3. -/
def State.reset : State where
  cks := ⟨Config.INIT, false⟩
  ckResult := 0xFFFF
  enc := { ck := ⟨0, false⟩, EQ := [] }
  dec :=
    { dstate := .awaitingStart, esc := false, cmd := 0, len := 0, plen := 0, id := 0,
      DBUF := Vector.replicate 251 0, idx := 0, rxcrcHi := 0, ck := ⟨0, false⟩ }
  dgValid := false
  emitted := []
  sent := []
  finished := []
  events := []
  accessed := []
  pending := []
  freeCtr := 0

end Sys2Proof.Machine
end

