-- ==== Sys2Proof/Machine/Operands.lean ====
section
/-! DEFINITION. Operands and byte order: slices and joins of multi-byte values, all big-endian (20_memory.md R63 to R66),
and which commands and requests are defined, accepted and valid (30_encoding.md R87, R88; 41_encoder.md R120). -/

namespace Sys2Proof.Machine

/-- `v[15:8]`. -/
def hiByte (v : Word16) : Byte := v.extractLsb' 8 8

/-- `v[7:0]`. -/
def loByte (v : Word16) : Byte := v.extractLsb' 0 8

/-- `{h, l}` (00_scope.md R15). -/
def join16 (h l : Byte) : Word16 := h ++ l

/-- `{b3, b2, b1, b0}`, most significant byte first (R63). -/
def join32 (b3 b2 b1 b0 : Byte) : Word32 := b3 ++ b2 ++ b1 ++ b0

/-- ID3 = `id[31:24]` (R64). -/
def id3 (id : Word32) : Byte := id.extractLsb' 24 8

/-- ID2 = `id[23:16]` (R64). -/
def id2 (id : Word32) : Byte := id.extractLsb' 16 8

/-- ID1 = `id[15:8]` (R64). -/
def id1 (id : Word32) : Byte := id.extractLsb' 8 8

/-- ID0 = `id[7:0]` (R64). -/
def id0 (id : Word32) : Byte := id.extractLsb' 0 8

/-- The identifier's bytes in wire order (R64). -/
def idBytes (id : Word32) : List Byte := [id3 id, id2 id, id1 id, id0 id]

/-- `id[31:24] <- b` (42_decoder.md R157). -/
def setId3 (id : Word32) (b : Byte) : Word32 := join32 b (id2 id) (id1 id) (id0 id)

/-- `id[23:16] <- b` (R158). -/
def setId2 (id : Word32) (b : Byte) : Word32 := join32 (id3 id) b (id1 id) (id0 id)

/-- `id[15:8] <- b` (R159). -/
def setId1 (id : Word32) (b : Byte) : Word32 := join32 (id3 id) (id2 id) b (id0 id)

/-- `id[7:0] <- b` (R160). -/
def setId0 (id : Word32) (b : Byte) : Word32 := join32 (id3 id) (id2 id) (id1 id) b

/-- The code of a decoder state (10_state.md R23). -/
def DState.code : DState → BitVec 4
  | .awaitingStart => 0
  | .awaitingCmd => 1
  | .awaitingLen => 2
  | .awaitingId0 => 3
  | .awaitingId1 => 4
  | .awaitingId2 => 5
  | .awaitingId3 => 6
  | .awaitingData => 7
  | .awaitingCrc0 => 8
  | .awaitingCrc1 => 9
  | .done => 10

/-- The code of a decode event (60_exceptions.md R301). -/
def Event.code : Event → Nat
  | .badCmd _ => 1
  | .shortLen _ => 2
  | .crcMismatch _ _ => 3
  | .frameAbandoned _ => 4

/-- The code of an accessor's error (60_exceptions.md R307). -/
def AccResult.errorCode (r : AccResult) : Option String :=
  match r with
  | .wrongLength => some "A1"
  | .okU8 _ | .okU16 _ | .okI32 _ | .okF32 _ => none

/-- `c` is the code of a defined command (R87). -/
def definedCmd (P : Config.Params) (c : Byte) : Bool := Command.all.any fun k => k.code P == c

/-- `accepted(c)` (R88). -/
def accepted (P : Config.Params) (c : Byte) : Bool :=
  (decide (c.toNat ≤ 0x08) && (c != 0x00 || P.acceptCmdZero)) || c == P.extCode

/-- A valid request: a defined command, and `req_plen` at most 251 (R120). -/
def validRequest (P : Config.Params) (r : Request) : Bool :=
  definedCmd P r.cmd && decide (r.plen.toNat ≤ Config.MAX_PAYLOAD)

/-- The Datagram a request asks for (R43). -/
def requestDatagram (r : Request) : Datagram := { cmd := r.cmd, id := r.id, payload := r.data }

/-- A Datagram as a request: what the host presents to have it built (R43). -/
def buildRequest (dg : Datagram) : Request :=
  { cmd := dg.cmd, id := dg.id, plen := BitVec.ofNat 8 dg.payload.length, data := dg.payload }

/-- A Datagram that the encoder takes: a defined command and at most 251 payload bytes (R120). -/
def validDatagram (P : Config.Params) (dg : Datagram) : Bool :=
  definedCmd P dg.cmd && decide (dg.payload.length ≤ Config.MAX_PAYLOAD)

end Sys2Proof.Machine
end

