-- ==== Sys2Proof/Machine/Flags.lean ====
section
/-! DEFINITION. The block's two kinds of flag (10_state.md R35): the parity flag of a checksum instance, and the
decoder's escape flag with the tests that read it (42_decoder.md R150 to R153). -/

namespace Sys2Proof.Machine

/-- The parity flag after one `ck_update`: it flips (40_checksum.md R101). -/
def parAfterUpdate (par : Bool) : Bool := !par

/-- Whether `ck_finish` folds in the pad: the parity is odd (R102). -/
def padDue (par : Bool) : Bool := par

/-- Step 1's test: the byte is START and no escape is pending (R151). -/
def isUnescapedStart (b : Byte) (esc : Bool) : Bool := b == Config.START && !esc

/-- Step 2's test: the byte is ESC and no escape is pending (R152). -/
def isUnescapedEsc (b : Byte) (esc : Bool) : Bool := b == Config.ESC && !esc

/-- A byte that steps 1 and 2 leave to dispatch (R153). -/
def isLiteral (b : Byte) (esc : Bool) : Bool := !isUnescapedStart b esc && !isUnescapedEsc b esc

end Sys2Proof.Machine
end

