-- ==== Sys2Proof/Machine/Ops.lean ====
section
/-! DEFINITION. The operations the meanings share: the checksum primitives (40_checksum.md R101 to R103), the frame
(30_encoding.md R80 to R84; 41_encoder.md R121), the drop and the resynchronization (60_exceptions.md R301, R314), the
decoder's handlers (42_decoder.md R150 to R164), and the updates of State. -/

namespace Sys2Proof.Machine

/-! ## Checksum primitives -/

/-- One bit of `ck_update`: the polynomial is XORed in when the data bit differs from the accumulator's top bit
before the shift (R101; 90_conflicts.md C6). -/
def crcBit (c : Word16) (bit : Bool) : Word16 :=
  if (c.getLsbD 15 ^^ bit) = true then (c <<< 1) ^^^ Config.POLY else c <<< 1

/-- The eight bits of a byte, most significant first (R101). -/
def bitsMsbFirst (b : Byte) : List Bool :=
  [b.getLsbD 7, b.getLsbD 6, b.getLsbD 5, b.getLsbD 4, b.getLsbD 3, b.getLsbD 2, b.getLsbD 1, b.getLsbD 0]

/-- The accumulator after folding in one byte (R101). -/
def crcByte (c : Word16) (b : Byte) : Word16 := (bitsMsbFirst b).foldl crcBit c

/-- `ck_update(K, b)` (R101). -/
def ckUpdate (K : Ck) (b : Byte) : Ck := { crc := crcByte K.crc b, par := parAfterUpdate K.par }

/-- `ck_reset` (R103). -/
def ckReset : Ck := { crc := Config.INIT, par := false }

/-- The instance after `ck_finish(K)`; the value returned is its `crc` (R102). -/
def ckFinish (K : Ck) : Ck := if padDue K.par then ckUpdate K 0x00 else K

/-- `ck_update` of each byte in order. -/
def ckFold (K : Ck) (bs : List Byte) : Ck := bs.foldl ckUpdate K

/-! ## The wire frame -/

/-- `esc(b)` (30_encoding.md R82). -/
def escByte (b : Byte) : List Byte := if b = Config.START ∨ b = Config.ESC then [Config.ESC, b] else [b]

/-- `escC(b)`, for the two CRC bytes (R84). -/
def escCrcByte (P : Config.Params) (b : Byte) : List Byte := if P.escapeCrc then escByte b else [b]

/-- The LEN byte of a payload of `n` bytes (R85). -/
def lenByte (n : Nat) : Byte := BitVec.ofNat 8 (n + Config.LEN_BIAS)

/-- The logical bytes that the checksum covers: CMD, LEN, ID3..ID0, DATA (R80, R89). -/
def logicalBytes (dg : Datagram) : List Byte :=
  dg.cmd :: lenByte dg.payload.length :: (idBytes dg.id ++ dg.payload)

/-- The encoder's checksum instance after a frame: `ck_reset`, one `ck_update` per logical byte, `ck_finish`
(R89, R121). -/
def frameCk (dg : Datagram) : Ck := ckFinish (ckFold ckReset (logicalBytes dg))

/-- `frame(cmd, id, payload)`, the wire bytes (R81, R121). -/
def frame (P : Config.Params) (dg : Datagram) : List Byte :=
  Config.START :: ((logicalBytes dg).flatMap escByte ++ escCrcByte P (hiByte (frameCk dg).crc) ++
    escCrcByte P (loByte (frameCk dg).crc))

/-! ## The decoder -/

/-- What one DEC.BYTE does: the decoder after it, the Datagram it emits, the event it records. -/
structure DecStep where
  dec : Dec
  emit : Option Datagram
  event : Option Event
  deriving DecidableEq, Repr

/-- A step that neither emits nor records. -/
def quietly (d : Dec) : DecStep := { dec := d, emit := none, event := none }

/-- `drop(reason, info)`: the one way into error handling. The event is recorded, the decoder returns to
AwaitingStart, and nothing is saved (00_scope.md R16; 60_exceptions.md R301, R314). -/
def drop (d : Dec) (e : Event) : DecStep :=
  { dec := { d with dstate := .awaitingStart }, emit := none, event := some e }

/-- Whether a frame is in progress: states 1 to 9 (R305). -/
def inFrame : DState → Bool
  | .awaitingStart | .done => false
  | .awaitingCmd | .awaitingLen | .awaitingId0 | .awaitingId1 | .awaitingId2 | .awaitingId3 | .awaitingData
  | .awaitingCrc0 | .awaitingCrc1 => true

/-- Step 1, resynchronization: the one way out of error handling too (42_decoder.md R151; 60_exceptions.md R305,
R315). -/
def resync (d : Dec) : DecStep :=
  { dec := { d with dstate := .awaitingCmd }, emit := none,
    event := if inFrame d.dstate then some (.frameAbandoned d.dstate) else none }

/-- The payload length of a LEN byte: `b − 4`, and 0 below 4 under TreatAsZero (R156). -/
def plenOf (b : Byte) : Byte := if b.toNat < Config.LEN_BIAS then 0 else b - 4

/-- The Datagram in the working registers (R42, R166). -/
def Dec.datagram (d : Dec) : Datagram :=
  { cmd := d.cmd, id := d.id, payload := d.DBUF.toList.take d.plen.toNat }

/-- AwaitingCmd (R155). -/
def onCmd (P : Config.Params) (b : Byte) (d : Dec) : DecStep :=
  if accepted P b then
    quietly { d with cmd := b, ck := ckUpdate ckReset b, dstate := .awaitingLen }
  else drop d (.badCmd b)

/-- AwaitingLen (R156): the byte is folded before the length is tested. -/
def onLen (P : Config.Params) (b : Byte) (d : Dec) : DecStep :=
  if b.toNat < Config.LEN_BIAS ∧ P.shortLen = .reject then
    drop { d with ck := ckUpdate d.ck b } (.shortLen b)
  else
    quietly { d with ck := ckUpdate d.ck b, len := b, plen := plenOf b, idx := 0, dstate := .awaitingId0 }

/-- AwaitingId0 (R157). -/
def onId0 (b : Byte) (d : Dec) : DecStep :=
  quietly { d with ck := ckUpdate d.ck b, id := setId3 d.id b, dstate := .awaitingId1 }

/-- AwaitingId1 (R158). -/
def onId1 (b : Byte) (d : Dec) : DecStep :=
  quietly { d with ck := ckUpdate d.ck b, id := setId2 d.id b, dstate := .awaitingId2 }

/-- AwaitingId2 (R159). -/
def onId2 (b : Byte) (d : Dec) : DecStep :=
  quietly { d with ck := ckUpdate d.ck b, id := setId1 d.id b, dstate := .awaitingId3 }

/-- AwaitingId3 (R160): an empty payload skips to the checksum. -/
def onId3 (b : Byte) (d : Dec) : DecStep :=
  quietly { d with
    ck := ckUpdate d.ck b, id := setId0 d.id b
    dstate := if d.plen = 0 then .awaitingCrc0 else .awaitingData }

/-- AwaitingData (R161): one byte of DBUF is written and the others stay, so past `DEC.plen` DBUF keeps what earlier
frames left there: DESIGN CHOICE, log 23, where R61 and 93_implementation_defined.md I7 leave those bytes open. In a
state no run reaches, with `DEC.idx` past 250, the write goes nowhere: DESIGN CHOICE, log 12. -/
def onData (b : Byte) (d : Dec) : DecStep :=
  quietly { d with
    ck := ckUpdate d.ck b, DBUF := d.DBUF.setIfInBounds d.idx.toNat b, idx := d.idx + 1
    dstate := if d.idx + 1 = d.plen then .awaitingCrc0 else .awaitingData }

/-- AwaitingCrc0 (R162). -/
def onCrc0 (b : Byte) (d : Dec) : DecStep := quietly { d with rxcrcHi := b, dstate := .awaitingCrc1 }

/-- AwaitingCrc1 (R163): the emission, or the drop with CRC_MISMATCH. -/
def onCrc1 (b : Byte) (d : Dec) : DecStep :=
  if join16 d.rxcrcHi b = (ckFinish d.ck).crc then
    { dec := { d with ck := ckFinish d.ck, dstate := .done }, emit := some d.datagram, event := none }
  else drop { d with ck := ckFinish d.ck } (.crcMismatch (join16 d.rxcrcHi b) (ckFinish d.ck).crc)

/-- Step 3, dispatch to the current state's handler (R153). AwaitingStart and Done ignore the byte (R154, R164). -/
def dispatch (P : Config.Params) (b : Byte) (d : Dec) : DecStep :=
  match d.dstate with
  | .awaitingStart => quietly d
  | .awaitingCmd => onCmd P b d
  | .awaitingLen => onLen P b d
  | .awaitingId0 => onId0 b d
  | .awaitingId1 => onId1 b d
  | .awaitingId2 => onId2 b d
  | .awaitingId3 => onId3 b d
  | .awaitingData => onData b d
  | .awaitingCrc0 => onCrc0 b d
  | .awaitingCrc1 => onCrc1 b d
  | .done => quietly d

/-- DEC.BYTE on the decoder (R150): the three steps in their order (60_exceptions.md R312). -/
def decByte (P : Config.Params) (b : Byte) (d : Dec) : DecStep :=
  if isUnescapedStart b d.esc then resync d
  else if isUnescapedEsc b d.esc then quietly { d with esc := true }
  else dispatch P b { d with esc := false }

/-- DEC.BYTE of each byte in order: the decoder at the end, the Datagrams emitted and the events recorded. -/
def decFeed (P : Config.Params) : List Byte → Dec → Dec × List Datagram × List Event
  | [], d => (d, [], [])
  | b :: bs, d =>
    let r := decByte P b d
    let rest := decFeed P bs r.dec
    (rest.1, r.emit.toList ++ rest.2.1, r.event.toList ++ rest.2.2)

/-- The decoder after RESET: AwaitingStart with no escape pending, every other register unspecified and so free
(44_block_control.md R221; 10_state.md R47). -/
def Dec.unspecified (n : Nat) : Dec where
  dstate := .awaitingStart
  esc := false
  cmd := Config.freeDecCmd n
  len := Config.freeDecLen n
  plen := Config.freeDecPlen n
  id := Config.freeDecId n
  DBUF := Config.freeDecDbuf n
  idx := Config.freeDecIdx n
  rxcrcHi := Config.freeDecRxcrcHi n
  ck := { crc := Config.freeDecCrc n, par := Config.freeDecPar n }

/-- The encoder after RESET: an empty queue, `ENC.ck` unspecified and so free (R221, R47). -/
def Enc.unspecified (n : Nat) : Enc where
  ck := { crc := Config.freeEncCrc n, par := Config.freeEncPar n }
  EQ := []

/-! ## Updates of State -/

/-- Write `CKS`. -/
def State.setCks (s : State) (k : Ck) : State := { s with cks := k }

/-- CK.FINISH's return: `CKS` after `ck_finish`, whose `crc` goes to `ck_result` and to the host (40_checksum.md
R106). -/
def State.returnCk (s : State) (k : Ck) : State :=
  { s with cks := k, ckResult := k.crc, finished := s.finished ++ [k.crc] }

/-- Write `ENC`. -/
def State.setEnc (s : State) (e : Enc) : State := { s with enc := e }

/-- `out(b)` with the queue `q` left (41_encoder.md R125). -/
def State.emitByte (s : State) (b : Byte) (q : List Byte) : State :=
  { s with enc := { s.enc with EQ := q }, sent := s.sent ++ [b] }

/-- Write `DEC` by an operation other than DEC.BYTE. -/
def State.setDec (s : State) (d : Dec) : State := { s with dec := d }

/-- What a DEC.BYTE step leaves: the decoder, the `dg_valid` strobe, the Datagram and the event (10_state.md R42,
60_exceptions.md R301). -/
def State.applyDec (s : State) (r : DecStep) : State :=
  { s with
    dec := r.dec, dgValid := r.emit.isSome, emitted := s.emitted ++ r.emit.toList
    events := s.events ++ r.event.toList }

/-- An accessor's result, given to the host. -/
def State.returnAcc (s : State) (r : AccResult) : State := { s with accessed := s.accessed ++ [r] }

/-- RESET on the whole block (R221). It uses its free values up: the counter moves on, so a second RESET, in the same run
too, leaves values of its own in the registers that R47 leaves unspecified (log 4). -/
def State.resetBlock (s : State) : State :=
  { s with
    cks := ckReset, ckResult := 0xFFFF, enc := Enc.unspecified s.freeCtr, dec := Dec.unspecified s.freeCtr
    freeCtr := s.freeCtr + 1 }

/-- What a step does before its operation: it takes up the port activity (leaving `rest` to come), moves on to fresh
free values, and no DEC.BYTE has emitted in its cycle yet (R42). -/
def State.beginStep (s : State) (rest : List Input) : State :=
  { s with pending := rest, freeCtr := s.freeCtr + 1, dgValid := false }

/-- Operations that a run leaves held stay on their ports, ahead of what is to come after them (60_exceptions.md R310;
log 2). -/
def State.wait (s : State) (ops : List Instr) : State :=
  { s with pending := (ops.map fun i => Input.code (encode i)) ++ s.pending }

end Sys2Proof.Machine
end

