-- ==== Sys2Proof/Machine/Accessors.lean ====
section
/-! DEFINITION. The payload accessors: pure functions of a Datagram (43_payload_accessors.md R200 to R205), and the host's
calls of them, which record the result and touch no register of the block (log 6). R200's length rule decides every
payload, one longer than 251 bytes too (log 20). -/

namespace Sys2Proof.Machine

/-- AS.U8 (R201). -/
def asU8 (dg : Datagram) : AccResult :=
  match dg.payload with
  | [b] => .okU8 b.toNat
  | _ => .wrongLength

/-- AS.U16 (R202). -/
def asU16 (dg : Datagram) : AccResult :=
  match dg.payload with
  | [h, l] => .okU16 (join16 h l).toNat
  | _ => .wrongLength

/-- AS.I32 (R203): two's complement (log 16). -/
def asI32 (dg : Datagram) : AccResult :=
  match dg.payload with
  | [b3, b2, b1, b0] => .okI32 (join32 b3 b2 b1 b0).toInt
  | _ => .wrongLength

/-- AS.F32 (R204): the pattern, unchanged. -/
def asF32 (dg : Datagram) : AccResult :=
  match dg.payload with
  | [b3, b2, b1, b0] => .okF32 (join32 b3 b2 b1 b0)
  | _ => .wrongLength

/-- A binary32 pattern read as a number (R204; log 16). -/
inductive F32Value where
  | nan
  | infinity (negative : Bool)
  /-- `(−1)^negative · significand · 2^exponent`. -/
  | finite (negative : Bool) (significand : Nat) (exponent : Int)
  deriving DecidableEq, Repr

/-- Bit 31, the sign (R204). -/
def f32Sign (p : Word32) : Bool := p.getLsbD 31

/-- Bits [30:23], the biased exponent (R204). -/
def f32Exponent (p : Word32) : BitVec 8 := p.extractLsb' 23 8

/-- Bits [22:0], the fraction (R204). -/
def f32Fraction (p : Word32) : BitVec 23 := p.extractLsb' 0 23

/-- `f32_of_bits` (R204). -/
def f32OfBits (p : Word32) : F32Value :=
  if (f32Exponent p).toNat = 255 then
    if (f32Fraction p).toNat = 0 then .infinity (f32Sign p) else .nan
  else if (f32Exponent p).toNat = 0 then .finite (f32Sign p) (f32Fraction p).toNat (-149)
  else .finite (f32Sign p) (2 ^ 23 + (f32Fraction p).toNat) ((f32Exponent p).toNat - 150)

/-- AS.U8 called by the host. -/
def execAsU8 (dg : Datagram) (s : State) : Host.Outcome State Fault Refusal := .next (s.returnAcc (asU8 dg))

/-- AS.U16 called by the host. -/
def execAsU16 (dg : Datagram) (s : State) : Host.Outcome State Fault Refusal := .next (s.returnAcc (asU16 dg))

/-- AS.I32 called by the host. -/
def execAsI32 (dg : Datagram) (s : State) : Host.Outcome State Fault Refusal := .next (s.returnAcc (asI32 dg))

/-- AS.F32 called by the host. -/
def execAsF32 (dg : Datagram) (s : State) : Host.Outcome State Fault Refusal := .next (s.returnAcc (asF32 dg))

end Sys2Proof.Machine
end

