-- ==== Sys2Proof/Machine/BlockControl.lean ====
section
/-! DEFINITION. Block control: IDLE and RESET (44_block_control.md). -/

namespace Sys2Proof.Machine

/-- IDLE (R220): no state changes. -/
def execIdle (s : State) : Host.Outcome State Fault Refusal := .next s

/-- RESET (R221). -/
def execReset (s : State) : Host.Outcome State Fault Refusal := .next s.resetBlock

end Sys2Proof.Machine
end

