-- ==== Sys2Proof/Machine/Checksum.lean ====
section
/-! DEFINITION. The standalone checksum's operations: CK.RESET, CK.UPDATE, CK.FINISH (40_checksum.md R104 to R106). -/

namespace Sys2Proof.Machine

/-- CK.RESET (R104): `ck_result` stays. -/
def execCkReset (s : State) : Host.Outcome State Fault Refusal := .next (s.setCks ckReset)

/-- CK.UPDATE b (R105). -/
def execCkUpdate (b : Byte) (s : State) : Host.Outcome State Fault Refusal := .next (s.setCks (ckUpdate s.cks b))

/-- CK.FINISH (R106). -/
def execCkFinish (s : State) : Host.Outcome State Fault Refusal := .next (s.returnCk (ckFinish s.cks))

end Sys2Proof.Machine
end

