-- ==== Sys2Proof/Machine/Commands.lean ====
section
/-! DEFINITION. The command rows of the opcode table (30_encoding.md R87, R88): a command byte on the decoder input does
what DEC.BYTE of its code does (10_state.md R41; 42_decoder.md R150, R155). DEDUCED: log 5. -/

namespace Sys2Proof.Machine

/-- A command byte on the decoder input. -/
def wireCommand (code : Byte) (s : State) : Host.Outcome State Fault Refusal :=
  .next (s.applyDec (decByte Config.params code s.dec))

/-- CMD.Read, 0x01. -/
def execCmdRead (s : State) : Host.Outcome State Fault Refusal := wireCommand (Command.read.code Config.params) s

/-- CMD.Write, 0x02. -/
def execCmdWrite (s : State) : Host.Outcome State Fault Refusal := wireCommand (Command.write.code Config.params) s

/-- CMD.LongWrite, 0x03. -/
def execCmdLongWrite (s : State) : Host.Outcome State Fault Refusal :=
  wireCommand (Command.longWrite.code Config.params) s

/-- CMD.Reserved1, 0x04: no special behaviour (93_implementation_defined.md I4). -/
def execCmdReserved1 (s : State) : Host.Outcome State Fault Refusal :=
  wireCommand (Command.reserved1.code Config.params) s

/-- CMD.Response, 0x05. -/
def execCmdResponse (s : State) : Host.Outcome State Fault Refusal :=
  wireCommand (Command.response.code Config.params) s

/-- CMD.LongResponse, 0x06. -/
def execCmdLongResponse (s : State) : Host.Outcome State Fault Refusal :=
  wireCommand (Command.longResponse.code Config.params) s

/-- CMD.Reserved2, 0x07: no special behaviour (I4). -/
def execCmdReserved2 (s : State) : Host.Outcome State Fault Refusal :=
  wireCommand (Command.reserved2.code Config.params) s

/-- CMD.ReadPeriodically, 0x08. -/
def execCmdReadPeriodically (s : State) : Host.Outcome State Fault Refusal :=
  wireCommand (Command.readPeriodically.code Config.params) s

/-- CMD.Extension, EXT_CODE. -/
def execCmdExtension (s : State) : Host.Outcome State Fault Refusal :=
  wireCommand (Command.extension.code Config.params) s

/-- CMD.Zero, 0x00: not a defined command; the decoder's acceptance is ACCEPT_CMD_ZERO (00_scope.md R11). -/
def execCmdZero (s : State) : Host.Outcome State Fault Refusal := wireCommand 0x00 s

end Sys2Proof.Machine
end

