-- ==== Sys2Proof/Machine/Decoder.lean ====
section
/-! DEFINITION. The decoder's operations: DEC.RESET and DEC.BYTE (42_decoder.md R150, R167). -/

namespace Sys2Proof.Machine

/-- DEC.RESET (R167): every other decoder register stays. -/
def execDecReset (s : State) : Host.Outcome State Fault Refusal :=
  .next (s.setDec { s.dec with dstate := .awaitingStart, esc := false })

/-- DEC.BYTE b (R150). -/
def execDecByte (b : Byte) (s : State) : Host.Outcome State Fault Refusal :=
  .next (s.applyDec (decByte Config.params b s.dec))

end Sys2Proof.Machine
end

