-- ==== Sys2Proof/Machine/Encoder.lean ====
section
/-! DEFINITION. The encoder's operations: ENC.RESET, ENC.BUILD, ENC.EMIT (41_encoder.md R122 to R127). -/

namespace Sys2Proof.Machine

/-- ENC.RESET (R127): `ENC.ck` stays. -/
def execEncReset (s : State) : Host.Outcome State Fault Refusal := .next (s.setEnc { s.enc with EQ := [] })

/-- ENC.BUILD (R122): refused if the request is invalid (R124), else the whole frame in one step. Held while the queue
is non-empty (R123): no step and no state change, so a step of the machine and a run keep it waiting and never perform
it then (log 2). -/
def execEncBuild (r : Request) (s : State) : Host.Outcome State Fault Refusal :=
  if validRequest Config.params r then
    match s.enc.EQ with
    | [] => .next (s.setEnc
        { ck := frameCk (requestDatagram r), EQ := frame Config.params (requestDatagram r) })
    | _ :: _ => .next s
  else .refused .invalidRequest

/-- ENC.EMIT (R125). Held while the queue is empty (R126; log 2). -/
def execEncEmit (s : State) : Host.Outcome State Fault Refusal :=
  match s.enc.EQ with
  | [] => .next s
  | b :: q => .next (s.emitByte b q)

end Sys2Proof.Machine
end

