-- ==== Sys2Proof/Machine/Dispatch.lean ====
section
/-! DEFINITION. exec: one arm per constructor of Instr, each the call of its meaning. -/

namespace Sys2Proof.Machine

def exec (i : Instr) (s : State) : Host.Outcome State Fault Refusal :=
  match i with
  -- block control (44_block_control.md)
  | .idle => Sys2Proof.Machine.execIdle s
  | .reset => Sys2Proof.Machine.execReset s
  -- checksum (40_checksum.md)
  | .ckReset => Sys2Proof.Machine.execCkReset s
  | .ckUpdate b => Sys2Proof.Machine.execCkUpdate b s
  | .ckFinish => Sys2Proof.Machine.execCkFinish s
  -- encoder (41_encoder.md)
  | .encReset => Sys2Proof.Machine.execEncReset s
  | .encBuild r => Sys2Proof.Machine.execEncBuild r s
  | .encEmit => Sys2Proof.Machine.execEncEmit s
  -- decoder (42_decoder.md)
  | .decReset => Sys2Proof.Machine.execDecReset s
  | .decByte b => Sys2Proof.Machine.execDecByte b s
  -- command bytes (30_encoding.md R87, R88)
  | .cmdRead => Sys2Proof.Machine.execCmdRead s
  | .cmdWrite => Sys2Proof.Machine.execCmdWrite s
  | .cmdLongWrite => Sys2Proof.Machine.execCmdLongWrite s
  | .cmdReserved1 => Sys2Proof.Machine.execCmdReserved1 s
  | .cmdResponse => Sys2Proof.Machine.execCmdResponse s
  | .cmdLongResponse => Sys2Proof.Machine.execCmdLongResponse s
  | .cmdReserved2 => Sys2Proof.Machine.execCmdReserved2 s
  | .cmdReadPeriodically => Sys2Proof.Machine.execCmdReadPeriodically s
  | .cmdExtension => Sys2Proof.Machine.execCmdExtension s
  | .cmdZero => Sys2Proof.Machine.execCmdZero s
  -- payload accessors (43_payload_accessors.md)
  | .asU8 dg => Sys2Proof.Machine.execAsU8 dg s
  | .asU16 dg => Sys2Proof.Machine.execAsU16 dg s
  | .asI32 dg => Sys2Proof.Machine.execAsI32 dg s
  | .asF32 dg => Sys2Proof.Machine.execAsF32 dg s

end Sys2Proof.Machine
end

