-- ==== Sys2Proof/Machine/Ports.lean ====
section
/-! DEFINITION. The ports (10_state.md R40 to R46): the output signals as functions of the state, the operations that a
cycle's input signals select, and runs of operations. -/

namespace Sys2Proof.Machine

/-! ## Output signals -/

/-- `req_ready` (R43). -/
def reqReady (s : State) : Bool := s.enc.EQ.isEmpty

/-- `out_valid` (R44). -/
def outValid (s : State) : Bool := !s.enc.EQ.isEmpty

/-- `out_byte` (R44): the head of the queue; any value, and so a free one, while `out_valid = 0` (log 10). -/
def outByte (s : State) : Byte :=
  match s.enc.EQ with
  | [] => Config.freeOutByte s.freeCtr
  | b :: _ => b

/-- `dg_cmd` (R42). -/
def dgCmd (s : State) : Byte := s.dec.cmd

/-- `dg_id` (R42). -/
def dgId (s : State) : Word32 := s.dec.id

/-- `dg_plen` (R42). -/
def dgPlen (s : State) : Byte := s.dec.plen

/-- `dg_data[i]`, i in 0..250 (R42). From `dg_plen` on it shows what DBUF holds there, the leftovers of earlier frames:
DESIGN CHOICE, log 23; while `dg_valid = 0` see log 11. -/
def dgData (s : State) (i : Fin 251) : Byte := s.dec.DBUF[i]

/-- The Datagram the `dg_*` signals show: `(dg_cmd, dg_id, dg_data[0 .. dg_plen − 1])` (R42). -/
def dgOut (s : State) : Datagram :=
  { cmd := dgCmd s, id := dgId s, payload := ((List.finRange 251).map (dgData s)).take (dgPlen s).toNat }

/-- `ck_result` (R45). -/
def ckResultPort (s : State) : Word16 := s.ckResult

/-! ## Input signals -/

/-- Signals that select nothing: the cycle IDLE stands for (44_block_control.md R220). -/
def PortIn.quiet : PortIn where
  rst := false
  inValid := false
  inByte := 0
  reqValid := false
  req := ReqPort.quiet
  outReady := false
  ckOp := 0
  ckByte := 0

/-- The decoder operation a cycle selects (R41). -/
def PortIn.decOps (p : PortIn) : List Instr := if p.inValid then [.decByte p.inByte] else []

/-- The encoder operation a cycle selects (R43, R44): the handshakes are those of the state the cycle finds. -/
def PortIn.encOps (p : PortIn) (s : State) : List Instr :=
  if p.reqValid && reqReady s then [.encBuild p.req.request]
  else if p.outReady && outValid s then [.encEmit]
  else []

/-- The checksum operation a cycle selects (R45). -/
def PortIn.ckOps (p : PortIn) : List Instr :=
  match p.ckOp with
  | 0#2 => []
  | 1#2 => [.ckReset]
  | 2#2 => [.ckUpdate p.ckByte]
  | 3#2 => [.ckFinish]

/-- Every operation a cycle selects: RESET alone with `rst = 1` (R40, 60_exceptions.md R313), IDLE if none (R220), and
otherwise the active decoder, encoder and checksum operations, in this order, which R46 says does not matter
(log 17). ENC.RESET and DEC.RESET are in no cycle's selection: no signal of R40 to R45 carries them, and each comes as an
operation word, alone in its step (DESIGN CHOICE, log 26). -/
def PortIn.ops (p : PortIn) (s : State) : List Instr :=
  if p.rst then [.reset]
  else
    match p.decOps ++ p.encOps s ++ p.ckOps with
    | [] => [.idle]
    | i :: is => i :: is

/-! ## Holds -/

/-- Whether an operation is held in a state (60_exceptions.md R310): ENC.BUILD of a valid request while the queue is
non-empty, ENC.EMIT while it is empty. -/
def held (i : Instr) (s : State) : Bool :=
  match i with
  | .encBuild r => validRequest Config.params r && !s.enc.EQ.isEmpty
  | .encEmit => s.enc.EQ.isEmpty
  | .idle | .reset | .ckReset | .ckUpdate _ | .ckFinish | .encReset | .decReset | .decByte _
  | .cmdRead | .cmdWrite | .cmdLongWrite | .cmdReserved1 | .cmdResponse | .cmdLongResponse | .cmdReserved2
  | .cmdReadPeriodically | .cmdExtension | .cmdZero | .asU8 _ | .asU16 _ | .asI32 _ | .asF32 _ => false

/-- The refusal of a rejected form (30_encoding.md R92, 60_exceptions.md R309). -/
def refusalOf : Reject → Refusal
  | .reservedOpcode w => .reservedOp w
  | .reservedImm8 w => .reservedOp w

/-- Whether a piece of port activity is held in a state. A reserved word is not held, and a cycle never is: its
handshakes happen in it or not at all. -/
def heldInput (x : Input) (s : State) : Bool :=
  match x with
  | .code c =>
    match decode c with
    | .ok i => held i s
    | .error _ => false
  | .cycle _ => false

/-- The first of a list that is not held, with the others in their order. -/
def takeFirst {α : Type} (isHeld : α → Bool) : List α → Option (α × List α)
  | [] => none
  | x :: xs => if isHeld x then (takeFirst isHeld xs).map fun r => (r.1, x :: r.2) else some (x, xs)

/-- The oldest port activity that is not held, with what then remains, in order. An operation that is held waits on
its port while the others go on (R310; 41_encoder.md R123, R126; log 2). -/
def takeEnabled (s : State) (l : List Input) : Option (Input × List Input) := takeFirst (fun x => heldInput x s) l

/-! ## Runs -/

/-- At most `n` steps of a run over the operations that have been given and not performed, oldest first: each step is
the oldest that is not held, and an operation that is held has no step (00_scope.md R16; 60_exceptions.md R310; log 2).
The run ends when none is left that is not held, with those that still wait; it stops at the first that does not answer
a next state. It puts no cycle boundary between its operations, where 10_state.md R46 leaves open how they fall into
cycles: `dg_valid` stays as the last DEC.BYTE set it, and `out_byte` with an empty queue shows one free value, until a
RESET or the next `step` (DESIGN CHOICE, log 24). -/
def runSteps : Nat → List Instr → State → Host.Outcome (State × List Instr) Fault Refusal
  | 0, ops, s => .next (s, ops)
  | n + 1, ops, s =>
    match takeFirst (fun i => held i s) ops with
    | none => .next (s, ops)
    | some (i, rest) =>
      match exec i s with
      | .next t => runSteps n rest t
      | .fault f => .fault f
      | .refused r => .refused r

/-- A run to its end: every step takes one operation off the list, so its length is steps enough. -/
def runOps (ops : List Instr) (s : State) : Host.Outcome (State × List Instr) Fault Refusal := runSteps ops.length ops s

/-- The state a run leaves: the operations still held wait on their ports. -/
def leaveWaiting (o : Host.Outcome (State × List Instr) Fault Refusal) : Host.Outcome State Fault Refusal :=
  match o with
  | .next (t, waiting) => .next (t.wait waiting)
  | .fault f => .fault f
  | .refused r => .refused r

/-- The operations given one after another. -/
def runInstrs (ops : List Instr) (s : State) : Host.Outcome State Fault Refusal := leaveWaiting (runOps ops s)

/-- One clock cycle: the selected operations together (R40, R46). None of them is ever held: the handshakes have chosen
them. -/
def runCycle (p : PortIn) (s : State) : Host.Outcome State Fault Refusal := runInstrs (p.ops s) s

/-! ## Pseudo-operations -/

/-- The pseudo-operations of 30_encoding.md R97. -/
inductive Pseudo where
  | decFeed (bs : List Byte)
  | encDrain
  | ckCrc (bs : List Byte)
  | loopEncToDec
  deriving DecidableEq, Repr

/-- The operations a pseudo-operation expands to, from the state it starts in (R97). -/
def Pseudo.expand (p : Pseudo) (s : State) : List Instr :=
  match p with
  | .decFeed bs => bs.map .decByte
  | .encDrain => s.enc.EQ.map fun _ => .encEmit
  | .ckCrc bs => .ckReset :: (bs.map .ckUpdate ++ [.ckFinish])
  | .loopEncToDec => s.enc.EQ.flatMap fun b => [.encEmit, .decByte b]

end Sys2Proof.Machine
end

