-- ==== Sys2Proof/Machine/Step.lean ====
section
/-! DEFINITION. One step of the machine: it takes up the oldest port activity (30_encoding.md R90; 10_state.md R40), or
idles when there is none (44_block_control.md R220). -/

namespace Sys2Proof.Machine

/-- One step: the oldest port activity that is not held (60_exceptions.md R310; log 2), or IDLE when there is none. -/
def step (s : State) : Host.Outcome State Fault Refusal :=
  match takeEnabled s s.pending with
  | none => exec .idle (s.beginStep s.pending)
  | some (.code c, rest) =>
    match decode c with
    | .ok i => exec i (s.beginStep rest)
    | .error e => .refused (refusalOf e)
  | some (.cycle p, rest) => runCycle p (s.beginStep rest)

/-- The state with a table row's word as the next port activity (log 1, log 15). -/
def State.withFetchWord (s : State) (nbits w : Nat) : State :=
  match tableCode nbits w with
  | some c => { s with pending := .code c :: s.pending }
  | none => s

end Sys2Proof.Machine
end

