-- ==== Sys2Proof/Machine/Asm.lean ====
section
/-! DEFINITION. The written forms (30_encoding.md R96 to R98): lines of assembly and the operations they stand for, and
the text of a Datagram. -/

namespace Sys2Proof.Machine

/-! ## Lines of assembly -/

/-- What a line says: nothing, one operation of R91, or a pseudo-operation of R97. -/
inductive AsmLine where
  | blank
  | op (i : Instr)
  | pseudo (p : Pseudo)
  deriving DecidableEq, Repr

/-- The value of a hexadecimal digit. R96 writes capital letters; small ones are read too (DESIGN CHOICE, log 22). -/
def hexDigit (c : Char) : Option Nat :=
  if 48 ≤ c.toNat ∧ c.toNat ≤ 57 then some (c.toNat - 48)
  else if 65 ≤ c.toNat ∧ c.toNat ≤ 70 then some (c.toNat - 55)
  else if 97 ≤ c.toNat ∧ c.toNat ≤ 102 then some (c.toNat - 87)
  else none

/-- The number that digits write, after those already read. -/
def hexDigits (n : Nat) : List Char → Option Nat
  | [] => some n
  | c :: cs => (hexDigit c).bind fun d => hexDigits (n * 16 + d) cs

/-- The number that exactly `k` digits write. -/
def hexNumber (k : Nat) (cs : List Char) : Option Nat := if cs.length = k then hexDigits 0 cs else none

/-- A byte written `NN`. -/
def byteText (cs : List Char) : Option Byte := (hexNumber 2 cs).map (BitVec.ofNat 8)

/-- What follows a fixed text. -/
def afterText : List Char → List Char → Option (List Char)
  | [], cs => some cs
  | _ :: _, [] => none
  | t :: ts, c :: cs => if t = c then afterText ts cs else none

/-- The part before the first of a character, and the part after it. -/
def cutAt (x : Char) : List Char → Option (List Char × List Char)
  | [] => none
  | c :: cs => if c = x then some ([], cs) else (cutAt x cs).map fun r => (c :: r.1, r.2)

/-- Whether a character only separates words. -/
def isBlank (c : Char) : Bool := c == ' ' || c == '\t'

/-- The pieces between blanks. -/
def pieces : List Char → List (List Char)
  | [] => [[]]
  | c :: cs =>
    if isBlank c then [] :: pieces cs
    else
      match pieces cs with
      | [] => [[c]]
      | w :: ws => (c :: w) :: ws

/-- The words of a text. -/
def wordsOf (cs : List Char) : List (List Char) := (pieces cs).filter fun w => !w.isEmpty

/-- A line without its comment, which begins with `;` (R96). -/
def codePart (cs : List Char) : List Char := cs.takeWhile fun c => c != ';'

/-- Bytes written `NN NN ...` (R96, R97). -/
def bytesText : List (List Char) → Option (List Byte)
  | [] => some []
  | w :: ws => (byteText w).bind fun b => (bytesText ws).map fun bs => b :: bs

/-- The byte operand `0xNN` of CK.UPDATE and DEC.BYTE (R96). -/
def byteOperand : List (List Char) → Option Byte
  | [w] => (afterText "0x".toList w).bind byteText
  | _ => none

/-- The bytes of `data=[NN NN ...]` (R96). -/
def dataOperand (cs : List Char) : Option (List Byte) :=
  (afterText "data=[".toList cs).bind fun r =>
    (cutAt ']' r).bind fun q => if q.2.all isBlank then bytesText (wordsOf q.1) else none

/-- The request of `cmd=0xNN id=0xNNNNNNNN data=[NN NN ...]` (R96), as the request port carries it (10_state.md R43):
at most 255 bytes have a `req_plen`, and 251 of them fit on `req_data`. -/
def requestOperand : List (List Char) → Option Request
  | c :: i :: rest =>
    ((afterText "cmd=0x".toList c).bind byteText).bind fun cmd =>
      ((afterText "id=0x".toList i).bind (hexNumber 8)).bind fun id =>
        (dataOperand (rest.flatMap fun w => w ++ [' '])).bind fun data =>
          if data.length ≤ 255 then
            some {
              cmd := cmd, id := BitVec.ofNat 32 id, plen := BitVec.ofNat 8 data.length
              data := data.take Config.MAX_PAYLOAD }
          else none
  | _ => none

/-- The operations and pseudo-operations with no operand (R91, R97). -/
def bareLines : List (String × AsmLine) :=
  [("IDLE", .op .idle), ("RESET", .op .reset), ("CK.RESET", .op .ckReset), ("CK.FINISH", .op .ckFinish),
   ("ENC.RESET", .op .encReset), ("ENC.EMIT", .op .encEmit), ("DEC.RESET", .op .decReset),
   ("ENC.DRAIN", .pseudo .encDrain), ("LOOP.ENC_TO_DEC", .pseudo .loopEncToDec)]

/-- A line from its mnemonic and operand words (R96, R97). -/
def asmWords (m : List Char) (ws : List (List Char)) : Option AsmLine :=
  if m = "CK.UPDATE".toList then (byteOperand ws).map fun b => .op (.ckUpdate b)
  else if m = "DEC.BYTE".toList then (byteOperand ws).map fun b => .op (.decByte b)
  else if m = "ENC.BUILD".toList then (requestOperand ws).map fun r => .op (.encBuild r)
  else if m = "DEC.FEED".toList then (bytesText ws).map fun bs => .pseudo (.decFeed bs)
  else if m = "CK.CRC".toList then (bytesText ws).map fun bs => .pseudo (.ckCrc bs)
  else if ws.isEmpty then (bareLines.find? fun p => p.1.toList == m).map fun p => p.2
  else none

/-- A line of assembly (R96): none if it is not one. -/
def asmLine (line : List Char) : Option AsmLine :=
  match wordsOf (codePart line) with
  | [] => some .blank
  | m :: ws => asmWords m ws

/-- The operation word of a line with one operation (R90, R96). -/
def AsmLine.word (l : AsmLine) : Option Word16 :=
  match l with
  | .blank => none
  | .pseudo _ => none
  | .op i =>
    match encode i with
    | .op w _ => some w
    | .wire _ => none
    | .call _ _ => none

/-- The operations of a line, from the state it starts in. -/
def AsmLine.instrs (l : AsmLine) (s : State) : List Instr :=
  match l with
  | .blank => []
  | .op i => [i]
  | .pseudo p => p.expand s

/-- A program's lines one after another, with the operations of earlier lines that still wait (60_exceptions.md R310;
log 2). A pseudo-operation is expanded in the state its line starts in. -/
def runLinesFrom (waiting : List Instr) : List AsmLine → State → Host.Outcome (State × List Instr) Fault Refusal
  | [], s => .next (s, waiting)
  | l :: ls, s =>
    match runOps (waiting ++ l.instrs s) s with
    | .next (t, waiting) => runLinesFrom waiting ls t
    | .fault f => .fault f
    | .refused r => .refused r

/-- A program of lines. -/
def runLines (ls : List AsmLine) (s : State) : Host.Outcome State Fault Refusal := leaveWaiting (runLinesFrom [] ls s)

/-! ## The text of a Datagram -/

/-- A hexadecimal digit, in capitals. -/
def hexChar (n : Nat) : Char := Char.ofNat (if n < 10 then 48 + n else 55 + n)

/-- A number in `k` hexadecimal digits. -/
def hexText : Nat → Nat → List Char
  | 0, _ => []
  | k + 1, n => hexText k (n / 16) ++ [hexChar (n % 16)]

/-- Bytes as `NN NN ...`. -/
def bytesAsText : List Byte → List Char
  | [] => []
  | [b] => hexText 2 b.toNat
  | b :: c :: bs => hexText 2 b.toNat ++ ' ' :: bytesAsText (c :: bs)

/-- The written form of a Datagram: `cmd=0xNN, id=0xNNNNNNNN, payload=[NN ...]` between curly brackets, which are
characters 123 and 125 (R98). -/
def datagramText (dg : Datagram) : List Char :=
  Char.ofNat 123 :: ("cmd=0x".toList ++ hexText 2 dg.cmd.toNat ++ ", id=0x".toList ++ hexText 8 dg.id.toNat ++
    ", payload=[".toList ++ bytesAsText dg.payload ++ [']', Char.ofNat 125])

/-- An operation as a line of assembly (R96): none for the instructions that are no operation of R91, and for a request
whose bytes are not all on the port. -/
def lineOf (i : Instr) : Option (List Char) :=
  match i with
  | .idle => some "IDLE".toList
  | .reset => some "RESET".toList
  | .ckReset => some "CK.RESET".toList
  | .ckUpdate b => some ("CK.UPDATE 0x".toList ++ hexText 2 b.toNat)
  | .ckFinish => some "CK.FINISH".toList
  | .encReset => some "ENC.RESET".toList
  | .encBuild r =>
    if r.plen.toNat = r.data.length then
      some ("ENC.BUILD cmd=0x".toList ++ hexText 2 r.cmd.toNat ++ " id=0x".toList ++ hexText 8 r.id.toNat ++
        " data=[".toList ++ bytesAsText r.data ++ [']'])
    else none
  | .encEmit => some "ENC.EMIT".toList
  | .decReset => some "DEC.RESET".toList
  | .decByte b => some ("DEC.BYTE 0x".toList ++ hexText 2 b.toNat)
  | .cmdRead | .cmdWrite | .cmdLongWrite | .cmdReserved1 | .cmdResponse | .cmdLongResponse | .cmdReserved2
  | .cmdReadPeriodically | .cmdExtension | .cmdZero | .asU8 _ | .asU16 _ | .asI32 _ | .asF32 _ => none

end Sys2Proof.Machine
end

