-- ==== Sys2Proof/Safety.lean ====
section
/-! DEFINITION. The terms the claims are made in: the invariant of reachable states (42_decoder.md R172, R165), which
decoder registers are live (R173), which unit an operation belongs to (10_state.md R20), readings of a wire sequence,
and the spec's own formulations that the model's definitions are compared with. -/

namespace Sys2Proof.Machine

/-! ## The invariant -/

/-- The logical bytes received since the command byte, in the states that are receiving a frame (R165). -/
def Dec.received (d : Dec) : List Byte :=
  match d.dstate with
  | .awaitingStart | .awaitingCmd => []
  | .awaitingLen => [d.cmd]
  | .awaitingId0 => [d.cmd, d.len]
  | .awaitingId1 => [d.cmd, d.len, id3 d.id]
  | .awaitingId2 => [d.cmd, d.len, id3 d.id, id2 d.id]
  | .awaitingId3 => [d.cmd, d.len, id3 d.id, id2 d.id, id1 d.id]
  | .awaitingData | .awaitingCrc0 | .awaitingCrc1 | .done =>
    d.cmd :: d.len :: (idBytes d.id ++ d.DBUF.toList.take d.idx.toNat)

/-- `DEC.plen` is the payload length of `DEC.len`, which is no less than 4 under Reject (R156). -/
def Dec.lenGood (P : Config.Params) (d : Dec) : Prop :=
  d.plen = plenOf d.len ∧ (P.shortLen = .reject → Config.LEN_BIAS ≤ d.len.toNat)

/-- What holds of the decoder's registers in each state that a run reaches (R165, R172). -/
def Dec.Inv (P : Config.Params) (d : Dec) : Prop :=
  match d.dstate with
  | .awaitingStart | .awaitingCmd => True
  | .awaitingLen => accepted P d.cmd = true ∧ d.ck = ckFold ckReset d.received
  | .awaitingId0 | .awaitingId1 | .awaitingId2 | .awaitingId3 =>
    accepted P d.cmd = true ∧ d.ck = ckFold ckReset d.received ∧ d.lenGood P ∧ d.idx = 0
  | .awaitingData =>
    accepted P d.cmd = true ∧ d.ck = ckFold ckReset d.received ∧ d.lenGood P ∧ d.idx.toNat < d.plen.toNat
  | .awaitingCrc0 | .awaitingCrc1 =>
    accepted P d.cmd = true ∧ d.ck = ckFold ckReset d.received ∧ d.lenGood P ∧ d.idx = d.plen
  | .done =>
    accepted P d.cmd = true ∧ d.ck = ckFinish (ckFold ckReset d.received) ∧ d.lenGood P ∧ d.idx = d.plen

/-- The invariant of the machine: the encoder queue keeps its size (10_state.md R22), the decoder's registers agree
with its state, and every Datagram emitted has an accepted command and a payload that fits (R166, R9). -/
structure State.Inv (s : State) : Prop where
  queue : s.enc.EQ.length ≤ Config.MAX_FRAME
  dec : s.dec.Inv Config.params
  emitted : ∀ dg ∈ s.emitted, accepted Config.params dg.cmd = true ∧ dg.payload.length ≤ Config.MAX_PAYLOAD

/-- The states a run reaches from reset, whatever the host puts on the ports and whenever (R172; 10_state.md R48). -/
inductive Reachable : State → Prop where
  | reset : Reachable State.reset
  | host (s : State) (inputs : List Input) : Reachable s → Reachable { s with pending := inputs }
  | step (s t : State) : Reachable s → step s = .next t → Reachable t

/-! ## Live registers -/

/-- Two decoders agree on every register that a later step may read before it is written: `dstate`, `esc`, and in each
state those of R173's registers that are read there. `DEC.rxcrc_hi` is among them in AwaitingCrc1: R173's list leaves it
out, and R31, R150 and R163 read it (DEDUCED, log 25). -/
def Dec.SameLive (d e : Dec) : Prop :=
  d.dstate = e.dstate ∧ d.esc = e.esc ∧
  match d.dstate with
  | .awaitingStart | .awaitingCmd | .done => True
  | .awaitingLen => d.cmd = e.cmd ∧ d.ck = e.ck
  | .awaitingId0 =>
    d.cmd = e.cmd ∧ d.ck = e.ck ∧ d.plen = e.plen ∧ d.idx = e.idx ∧
      d.DBUF.toList.take d.idx.toNat = e.DBUF.toList.take d.idx.toNat
  | .awaitingId1 =>
    d.cmd = e.cmd ∧ d.ck = e.ck ∧ d.plen = e.plen ∧ d.idx = e.idx ∧
      d.DBUF.toList.take d.idx.toNat = e.DBUF.toList.take d.idx.toNat ∧ id3 d.id = id3 e.id
  | .awaitingId2 =>
    d.cmd = e.cmd ∧ d.ck = e.ck ∧ d.plen = e.plen ∧ d.idx = e.idx ∧
      d.DBUF.toList.take d.idx.toNat = e.DBUF.toList.take d.idx.toNat ∧ id3 d.id = id3 e.id ∧ id2 d.id = id2 e.id
  | .awaitingId3 =>
    d.cmd = e.cmd ∧ d.ck = e.ck ∧ d.plen = e.plen ∧ d.idx = e.idx ∧
      d.DBUF.toList.take d.idx.toNat = e.DBUF.toList.take d.idx.toNat ∧ id3 d.id = id3 e.id ∧ id2 d.id = id2 e.id ∧
      id1 d.id = id1 e.id
  | .awaitingData =>
    d.cmd = e.cmd ∧ d.ck = e.ck ∧ d.plen = e.plen ∧ d.idx = e.idx ∧
      d.DBUF.toList.take d.idx.toNat = e.DBUF.toList.take d.idx.toNat ∧ d.id = e.id
  | .awaitingCrc0 =>
    d.cmd = e.cmd ∧ d.ck = e.ck ∧ d.plen = e.plen ∧ d.id = e.id ∧
      d.DBUF.toList.take d.plen.toNat = e.DBUF.toList.take d.plen.toNat
  | .awaitingCrc1 =>
    d.cmd = e.cmd ∧ d.ck = e.ck ∧ d.plen = e.plen ∧ d.id = e.id ∧ d.rxcrcHi = e.rxcrcHi ∧
      d.DBUF.toList.take d.plen.toNat = e.DBUF.toList.take d.plen.toNat

/-! ## Units -/

/-- The part of the machine an operation reads and writes (10_state.md R20; 30_encoding.md R91). IDLE touches none,
RESET all. -/
inductive UnitName where
  | cks
  | enc
  | dec
  | host
  | none
  | all
  deriving DecidableEq, Repr

/-- The unit of each operation (R91). -/
def unitOf : Instr → UnitName
  | .idle => .none
  | .reset => .all
  | .ckReset | .ckUpdate _ | .ckFinish => .cks
  | .encReset | .encBuild _ | .encEmit => .enc
  | .decReset | .decByte _ | .cmdRead | .cmdWrite | .cmdLongWrite | .cmdReserved1 | .cmdResponse | .cmdLongResponse
  | .cmdReserved2 | .cmdReadPeriodically | .cmdExtension | .cmdZero => .dec
  | .asU8 _ | .asU16 _ | .asI32 _ | .asF32 _ => .host

/-- The operations that touch the decoder. -/
def touchesDec (i : Instr) : Bool := unitOf i == .dec || unitOf i == .all

/-- The operations that touch the encoder. -/
def touchesEnc (i : Instr) : Bool := unitOf i == .enc || unitOf i == .all

/-- The operations that touch the standalone checksum. -/
def touchesCks (i : Instr) : Bool := unitOf i == .cks || unitOf i == .all

/-! ## Readings of a wire sequence -/

/-- The number of unescaped START bytes in a wire sequence read with the escape flag `esc` (30_encoding.md R83). -/
def unescapedStarts (esc : Bool) : List Byte → Nat
  | [] => 0
  | b :: bs =>
    if isUnescapedStart b esc then unescapedStarts false bs + 1
    else if isUnescapedEsc b esc then unescapedStarts true bs
    else unescapedStarts false bs

/-- The escape flag after a wire sequence. An unescaped START leaves it clear. -/
def escAfter (esc : Bool) : List Byte → Bool
  | [] => esc
  | b :: bs => escAfter (isUnescapedEsc b esc) bs

/-- The literal bytes of a wire sequence: its escapes removed (R82, R95). -/
def literals (esc : Bool) : List Byte → List Byte
  | [] => []
  | b :: bs => if isUnescapedEsc b esc then literals true bs else b :: literals false bs

/-- The bytes among `bs` that the escape function escapes (41_encoder.md R130). -/
def markers (bs : List Byte) : Nat := bs.countP fun b => b == Config.START || b == Config.ESC

/-! ## The spec's own formulations -/

/-- An operation with no byte operand (30_encoding.md R90 to R92): its word has `imm8 = 0x00`, and any other `imm8`
makes the word reserved. -/
def WordWithoutOperand (opcode : Byte) (i : Instr) : Prop :=
  ∀ port, decode (.op (opWord opcode 0x00) port) = .ok i ∧
    ∀ imm8, imm8 ≠ 0x00 → decode (.op (opWord opcode imm8) port) = .error (.reservedImm8 (opWord opcode imm8))

/-- The operations that a cycle with `rst = 0` performs in a state (10_state.md R41, R43, R44, R45). -/
def selects (p : PortIn) (s : State) : List Instr :=
  (if p.inValid = true then [.decByte p.inByte] else []) ++
    (if p.reqValid = true ∧ s.enc.EQ = [] then [.encBuild p.req.request] else []) ++
    (if p.outReady = true ∧ s.enc.EQ ≠ [] then [.encEmit] else []) ++
    (if p.ckOp = 1 then [.ckReset] else if p.ckOp = 2 then [.ckUpdate p.ckByte]
      else if p.ckOp = 3 then [.ckFinish] else [])

/-- `put(b)` of 41_encoder.md R121, on the frame so far and `ENC.ck`. -/
def framePut (qk : List Byte × Ck) (b : Byte) : List Byte × Ck := (qk.1 ++ escByte b, ckUpdate qk.2 b)

/-- `frame(cmd, id, p)` as R121 writes it: the wire bytes, and `ENC.ck` afterwards. -/
def frameByPut (P : Config.Params) (dg : Datagram) : List Byte × Ck :=
  let qk := framePut ([Config.START], ckReset) dg.cmd
  let qk := framePut qk (BitVec.ofNat 8 (dg.payload.length + 4))
  let qk := framePut (framePut (framePut (framePut qk (id3 dg.id)) (id2 dg.id)) (id1 dg.id)) (id0 dg.id)
  let qk := dg.payload.foldl framePut qk
  let K := ckFinish qk.2
  (qk.1 ++ escCrcByte P (hiByte K.crc) ++ escCrcByte P (loByte K.crc), K)

/-- The transition table of 42_decoder.md R168, for a byte that reached dispatch ("literal b"): `cmdOk`, `lenOk`,
`noData`, `last` and `crcOk` are the table's tests. -/
def nextOnLiteral (cmdOk lenOk noData last crcOk : Bool) : DState → DState
  | .awaitingStart => .awaitingStart
  | .awaitingCmd => if cmdOk then .awaitingLen else .awaitingStart
  | .awaitingLen => if lenOk then .awaitingId0 else .awaitingStart
  | .awaitingId0 => .awaitingId1
  | .awaitingId1 => .awaitingId2
  | .awaitingId2 => .awaitingId3
  | .awaitingId3 => if noData then .awaitingCrc0 else .awaitingData
  | .awaitingData => if last then .awaitingCrc0 else .awaitingData
  | .awaitingCrc0 => .awaitingCrc1
  | .awaitingCrc1 => if crcOk then .done else .awaitingStart
  | .done => .done

/-- One shift of the checksum register with no data bit: the remainder step for the generator
x^16 + x^12 + x^5 + 1 (40_checksum.md R107). -/
def gfShift (c : Word16) : Word16 := if c.getLsbD 15 then (c <<< 1) ^^^ Config.POLY else c <<< 1

end Sys2Proof.Machine
end

