-- ==== Sys2Proof/Certificates/Slice0/Obligations.lean ====
section
/-! DEFINITION. The statements for the provers. Each docstring names the rule of spec/ it formalises; what rests on a
choice of the model's names its log entry. -/

open Sys2Proof Sys2Proof.Machine

/-! ## Encodings -/

/-- Decoding the encoding of a well-formed instruction gives it back, for all 24 constructors and every operand
(30_encoding.md R87, R90, R91; the accessors' calls are the model's form, log 6). -/
def Obligations.DecodeOfEncodeIsIdentity : Prop :=
  ∀ i : Instr, i.wellFormed = true → decode (encode i) = .ok i

/-- Whatever the decoder accepts is well-formed, and its encoding has the word it came from: an operation word exactly,
a byte on the decoder input as that byte or, where it is no command row, as DEC.BYTE of it (log 19). -/
def Obligations.DecodedIsWellFormedAndKeepsItsWord : Prop :=
  ∀ (c : Code) (i : Instr), decode c = .ok i →
    i.wellFormed = true ∧
    match c with
    | .op w _ => ∃ port, encode i = .op w port
    | .wire b => encode i = .wire b ∨ i = .decByte b
    | .call _ _ => encode i = c

/-- Every word of a row of opcode_table.json decodes to that row's instruction, on both word formats, and no two rows
share a word (30_encoding.md R87, R88, R91). -/
def Obligations.TableRowsDecodeToTheirInstruction : Prop :=
  (∀ (w : Word16) (port : ReqPort), ∀ r ∈ op16Rows, r.holds w.toNat = true →
    ∃ i, decode (.op w port) = .ok i ∧ i.mnemonic = r.mnemonic) ∧
  (∀ b : Byte, ∀ r ∈ cmd8Rows, r.holds b.toNat = true → ∃ i, decode (.wire b) = .ok i ∧ i.mnemonic = r.mnemonic) ∧
  (∀ (w : Word16), ∀ r ∈ op16Rows, ∀ q ∈ op16Rows, r.holds w.toNat = true → q.holds w.toNat = true → r = q) ∧
  (∀ b : Byte, ∀ r ∈ cmd8Rows, ∀ q ∈ cmd8Rows, r.holds b.toNat = true → q.holds b.toNat = true → r = q)

/-- 30_encoding.md R92: a word whose opcode is not one of R91's ten (the other 246 values), or whose `imm8` is not 0x00
on a row that takes no byte, is refused by `step` with ReservedOp; a word of R91 decodes to an instruction. -/
def Obligations.ReservedWordsAreRefused : Prop :=
  let opcodes : List Byte := [0x00, 0x01, 0x10, 0x11, 0x12, 0x20, 0x21, 0x22, 0x30, 0x31]
  (∀ (w : Word16) (port : ReqPort),
    opcodeOf w ∈ opcodes → (opcodeOf w = 0x11 ∨ opcodeOf w = 0x31 ∨ imm8Of w = 0x00) →
    ∃ i, decode (.op w port) = .ok i) ∧
  (∀ (s : State) (w : Word16) (port : ReqPort) (rest : List Input),
    (opcodeOf w ∉ opcodes ∨ (opcodeOf w ≠ 0x11 ∧ opcodeOf w ≠ 0x31 ∧ imm8Of w ≠ 0x00)) →
    s.pending = .code (.op w port) :: rest → step s = .refused (.reservedOp w)) ∧
  256 - opcodes.length = 246

/-- A few words of 95_test_vectors.md V72 (30_encoding.md R91, R92) and the command code 0x01 (R87; that a command code on
the decoder input decodes to its row is log 19), written out, decode to what they stand for. -/
def Obligations.WrittenOutWordsDecode : Prop :=
  decodeTableWord 16 0x0000 = some .idle ∧ decodeTableWord 16 0x1200 = some .ckFinish ∧
  decodeTableWord 16 0x112D = some (.ckUpdate 0x2D) ∧ decodeTableWord 16 0x2200 = some .encEmit ∧
  decodeTableWord 16 0x31B4 = some (.decByte 0xB4) ∧ decodeTableWord 16 0x3000 = some .decReset ∧
  decodeTableWord 8 0x01 = some .cmdRead ∧ decodeTableWord 16 0x1001 = none ∧ decodeTableWord 16 0xFF00 = none

/-! ## Steps -/

/-- A step runs the decoded instruction: when the oldest port activity is an operation that decodes to `i` and is not
held, the step is `exec i` at the state that has taken it up (`State.beginStep`: that activity gone, the free values
moved on, `dg_valid` clear). The step model is the model's, log 1. -/
def Obligations.StepRunsTheDecodedInstruction : Prop :=
  ∀ (s : State) (c : Code) (i : Instr) (rest : List Input),
    s.pending = .code c :: rest → decode c = .ok i → held i s = false →
    step s = exec i { s with pending := rest, freeCtr := s.freeCtr + 1, dgValid := false }

/-- What is held, and that it waits (60_exceptions.md R310; 00_scope.md R16; how a wait shows is log 2). Held are
ENC.BUILD of a valid request while the queue is non-empty and ENC.EMIT while it is empty; a reserved word and a cycle
never are. A step passes over any number of activities that are held, leaves them in their places, and does the first
that is not held, whatever it is; with nothing else to do the block idles. A run does the same with its operations, and
those that nothing lifts are left waiting on their ports. -/
def Obligations.HeldOperationWaitsOnItsPort : Prop :=
  (∀ (i : Instr) (s : State), held i s = true ↔
    ((∃ r, i = .encBuild r ∧ validRequest Config.params r = true ∧ s.enc.EQ ≠ []) ∨
     (i = .encEmit ∧ s.enc.EQ = []))) ∧
  (∀ (x : Input) (s : State), heldInput x s = true ↔ ∃ c i, x = .code c ∧ decode c = .ok i ∧ held i s = true) ∧
  (∀ s : State, (∀ x ∈ s.pending, heldInput x s = true) →
    step s = .next { s with freeCtr := s.freeCtr + 1, dgValid := false }) ∧
  (∀ (s : State) (ws : List Input) (x : Input) (rest : List Input),
    s.pending = ws ++ x :: rest → (∀ w ∈ ws, heldInput w s = true) → heldInput x s = false →
    let t : State := { s with pending := ws ++ rest, freeCtr := s.freeCtr + 1, dgValid := false }
    (∀ c i, x = .code c → decode c = .ok i → step s = exec i t) ∧
    (∀ c e, x = .code c → decode c = .error e → step s = .refused (refusalOf e)) ∧
    (∀ p, x = .cycle p → step s = runCycle p t)) ∧
  (∀ (s t : State) (ws : List Instr) (i : Instr) (rest : List Instr),
    (∀ w ∈ ws, held w s = true) → held i s = false → exec i s = .next t →
    runInstrs (ws ++ i :: rest) s = runInstrs (ws ++ rest) t) ∧
  (∀ (s : State) (ws : List Instr), (∀ w ∈ ws, held w s = true) →
    runInstrs ws s = .next { s with pending := (ws.map fun w => .code (encode w)) ++ s.pending })

/-- A clock cycle's step: with `rst = 1` it is RESET alone (10_state.md R40), with no port active it is IDLE
(44_block_control.md R220), and with `rst = 0` it is the operations its ports select (`selects`: the decoder's, the
encoder's by its handshakes, the checksum's), in any order (R46). ENC.RESET and DEC.RESET have no signal and are in no
cycle's selection: log 26. -/
def Obligations.CyclePerformsWhatItsPortsSelect : Prop :=
  ∀ (s : State) (p : PortIn) (rest : List Input), s.pending = .cycle p :: rest →
    let t : State := { s with pending := rest, freeCtr := s.freeCtr + 1, dgValid := false }
    (p.rst = true → step s = exec .reset t) ∧
    (p.rst = false → selects p s = [] → step s = exec .idle t) ∧
    (p.rst = false → ∀ ops : List Instr, ops.Perm (selects p s) → step s = runInstrs ops t)

/-- IDLE (44_block_control.md R220): its word, that it changes nothing, that it is a cycle with `rst = 0` in which no port
performs anything, and that any number of IDLE steps among other operations changes nothing of a run (a run has no cycle
boundary of its own, so the `dg_valid` strobe stays too: log 24). -/
def Obligations.IdleChangesNothingAnywhere : Prop :=
  WordWithoutOperand 0x00 .idle ∧ (∀ s, exec .idle s = .next s) ∧
  (∀ (p : PortIn) (s : State), p.rst = false → selects p s = [] → runCycle p s = exec .idle s) ∧
  ∀ (l : List Instr) (s : State), runInstrs l s = runInstrs (l.filter (· ≠ .idle)) s

/-! ## Checksum -/

/-- 40_checksum.md R101: `ck_update` is the loop from bit 7 down to bit 0 that shifts the accumulator left and XORs POLY
in when the data bit differs from the accumulator's top bit; the parity flips; 0x01 from (0xFFFF, 0) gives
(0xF1D1, 1). -/
def Obligations.CkUpdateIsTheBitLoop : Prop :=
  (∀ (K : Ck) (b : Byte),
    ckUpdate K b =
      { crc := [7, 6, 5, 4, 3, 2, 1, 0].foldl
          (fun (c : Word16) (i : Nat) =>
            let t := c.getLsbD 15 ^^ b.getLsbD i
            let c := c <<< 1
            if t then c ^^^ 0x1021 else c) K.crc
        par := K.par ^^ true }) ∧
  ckUpdate ⟨0xFFFF, false⟩ 0x01 = ⟨0xF1D1, true⟩

/-- The GF(2) reading of 40_checksum.md R107: folding a byte is adding it to the accumulator's high byte and taking
eight remainder steps of the generator x^16 + x^12 + x^5 + 1. -/
def Obligations.CrcByteIsEightRemainderSteps : Prop :=
  ∀ (c : Word16) (b : Byte),
    crcByte c b = gfShift^[8] (c ^^^ (b ++ (0 : Byte)))

/-- The GF(2) reading of R107 on sequences: the checksum is linear over XOR of accumulators and of equally long byte
sequences, and no two accumulators give one result. -/
def Obligations.CrcIsLinearAndInjective : Prop :=
  (∀ (K L : Ck) (bs cs : List Byte), bs.length = cs.length →
    (ckFold ⟨K.crc ^^^ L.crc, K.par⟩ (List.zipWith (· ^^^ ·) bs cs)).crc = (ckFold K bs).crc ^^^ (ckFold L cs).crc) ∧
  (∀ (K L : Ck) (bs : List Byte), (ckFold K bs).crc = (ckFold L bs).crc → K.crc = L.crc)

/-- CK.RESET (40_checksum.md R104). -/
def Obligations.CkResetRule : Prop :=
  WordWithoutOperand 0x10 .ckReset ∧
  ∀ s : State, exec .ckReset s = .next { s with cks := ⟨0xFFFF, false⟩ }

/-- CK.UPDATE b (40_checksum.md R105), with its example. -/
def Obligations.CkUpdateRule : Prop :=
  (∀ (b : Byte) (port : ReqPort), decode (.op (opWord 0x11 b) port) = .ok (.ckUpdate b)) ∧
  (∀ (b : Byte) (s : State), exec (.ckUpdate b) s = .next { s with cks := ⟨crcByte s.cks.crc b, !s.cks.par⟩ }) ∧
  (∀ s : State, s.cks = ⟨0xFFFF, false⟩ → exec (.ckUpdate 0x2B) s = .next { s with cks := ⟨0x74F9, true⟩ })

/-- CK.FINISH (40_checksum.md R106): after an odd number of updates the zero pad is folded and `CKS.crc` changes to
the result; after an even number `CKS` is unchanged; a second CK.FINISH returns the same value; the example. -/
def Obligations.CkFinishRule : Prop :=
  WordWithoutOperand 0x12 .ckFinish ∧
  (∀ s : State, s.cks.par = true →
    exec .ckFinish s = .next { s with
      cks := ⟨crcByte s.cks.crc 0x00, false⟩, ckResult := crcByte s.cks.crc 0x00
      finished := s.finished ++ [crcByte s.cks.crc 0x00] }) ∧
  (∀ s : State, s.cks.par = false →
    exec .ckFinish s = .next { s with ckResult := s.cks.crc, finished := s.finished ++ [s.cks.crc] }) ∧
  (∀ s : State, ∃ v t, runInstrs [.ckFinish, .ckFinish] s = .next t ∧ t.finished = s.finished ++ [v, v] ∧
    t.cks = ⟨v, false⟩) ∧
  (∀ s : State, ∃ t, runInstrs [.ckReset, .ckUpdate 0x01, .ckFinish] s = .next t ∧ t.ckResult = 0x2E3E ∧
    t.cks = ⟨0x2E3E, false⟩)

/-- The pseudo-operation CK.CRC (30_encoding.md R97) over any bytes, from any state: it returns the fold from reset,
padded with one zero byte when the count is odd, and nothing but the checksum unit changes; over no bytes it returns
0xFFFF (40_checksum.md R108). The parity flag before the finish says whether the count is odd (10_state.md R21). -/
def Obligations.CkCrcReturnsThePaddedFold : Prop :=
  (∀ (bs : List Byte) (s : State),
    let padded := if bs.length % 2 = 1 then bs ++ [0x00] else bs
    let v := (ckFold ckReset padded).crc
    (ckFold ckReset bs).par = decide (bs.length % 2 = 1) ∧
    runInstrs (Pseudo.expand (.ckCrc bs) s) s =
      .next { s with cks := ⟨v, false⟩, ckResult := v, finished := s.finished ++ [v] }) ∧
  (∀ s : State, runInstrs [.ckReset, .ckFinish] s =
    .next { s with cks := ⟨0xFFFF, false⟩, ckResult := 0xFFFF, finished := s.finished ++ [0xFFFF] })

/-! ## Encoder -/

/-- 41_encoder.md R121: the frame and the encoder's checksum instance are those of the rule's pseudocode, written
with `put`, for every value of the parameters. -/
def Obligations.FrameIsThePutSequence : Prop :=
  ∀ (P : Config.Params) (dg : Datagram), frameByPut P dg = (frame P dg, frameCk dg) ∧ (frameCk dg).par = false

/-- ENC.BUILD of a valid request on an idle encoder (41_encoder.md R122): the whole frame in one step, nothing else of
the block changed; its word; the example V1. -/
def Obligations.BuildLoadsTheFrame : Prop :=
  (∀ port : ReqPort, decode (.op 0x2100 port) = .ok (.encBuild port.request)) ∧
  (∀ (r : Request) (s : State), validRequest Config.params r = true → s.enc.EQ = [] →
    exec (.encBuild r) s = .next { s with
      enc := { ck := (frameByPut Config.params ⟨r.cmd, r.id, r.data⟩).2
               EQ := (frameByPut Config.params ⟨r.cmd, r.id, r.data⟩).1 } }) ∧
  (∀ s : State, s.enc.EQ = [] →
    exec (.encBuild ⟨0x01, 0x400F015B, 0, []⟩) s = .next { s with
      enc := { ck := ⟨0x58B4, false⟩, EQ := [0x2B, 0x01, 0x04, 0x40, 0x0F, 0x01, 0x5B, 0x58, 0xB4] } })

/-- ENC.BUILD waits while the encoder is busy (41_encoder.md R123): no state changes and `req_ready = 0`. The ENC.EMIT
that empties the queue, ENC.RESET and RESET lift the hold, and then the same request is built; so in a run that presents
a valid request and then drains a busy encoder the old frame goes out whole and the new one stands in the queue
(95_test_vectors.md V37; how a wait shows is log 2). -/
def Obligations.BuildWaitsWhileBusy : Prop :=
  (∀ (r : Request) (s : State), validRequest Config.params r = true → s.enc.EQ ≠ [] →
    exec (.encBuild r) s = .next s ∧ reqReady s = false ∧ held (.encBuild r) s = true) ∧
  (∀ (r : Request) (s : State), s.enc.EQ = [] → reqReady s = true ∧ held (.encBuild r) s = false) ∧
  (∀ (r : Request) (i : Instr) (s : State), validRequest Config.params r = true →
    ((i = .encEmit ∧ s.enc.EQ.length = 1) ∨ i = .encReset ∨ i = .reset) →
    ∃ t, exec i s = .next t ∧ reqReady t = true ∧
      exec (.encBuild r) t = .next { t with
        enc := { ck := (frameByPut Config.params ⟨r.cmd, r.id, r.data⟩).2
                 EQ := (frameByPut Config.params ⟨r.cmd, r.id, r.data⟩).1 } }) ∧
  (∀ (r : Request) (s : State), validRequest Config.params r = true → s.enc.EQ ≠ [] →
    runInstrs (.encBuild r :: Pseudo.expand .encDrain s) s = .next { s with
      enc := { ck := (frameByPut Config.params ⟨r.cmd, r.id, r.data⟩).2
               EQ := (frameByPut Config.params ⟨r.cmd, r.id, r.data⟩).1 }
      sent := s.sent ++ s.enc.EQ })

/-- ENC.BUILD is refused with InvalidRequest exactly in the two cases of 41_encoder.md R124: a command outside the
nine defined codes of 30_encoding.md R87, or `req_plen` in 252..255. -/
def Obligations.InvalidRequestsAreRefused : Prop :=
  ∀ (r : Request) (s : State),
    exec (.encBuild r) s = .refused .invalidRequest ↔
      (r.cmd ∉ ([0x01, 0x02, 0x03, 0x04, 0x05, 0x06, 0x07, 0x08, 0x3C] : List Byte) ∨ 252 ≤ r.plen.toNat)

/-- ENC.EMIT (41_encoder.md R125): the head goes out and the tail stays; the last one of a frame makes `req_ready` 1;
its word. -/
def Obligations.EmitPutsOutTheHead : Prop :=
  WordWithoutOperand 0x22 .encEmit ∧
  (∀ (s : State) (b : Byte) (q : List Byte), s.enc.EQ = b :: q →
    exec .encEmit s = .next { s with enc := { s.enc with EQ := q }, sent := s.sent ++ [b] } ∧
    outValid s = true ∧ outByte s = b) ∧
  (∀ (s t : State) (b : Byte), s.enc.EQ = [b] → exec .encEmit s = .next t → reqReady t = true)

/-- ENC.EMIT waits while the queue is empty (41_encoder.md R126): no state changes, `out_valid = 0`, and the next
ENC.BUILD lifts the hold. -/
def Obligations.EmitWaitsWhileEmpty : Prop :=
  (∀ s : State, s.enc.EQ = [] → exec .encEmit s = .next s ∧ outValid s = false ∧ held .encEmit s = true) ∧
  (∀ (s t : State) (r : Request), validRequest Config.params r = true → s.enc.EQ = [] →
    exec (.encBuild r) s = .next t → held .encEmit t = false ∧ outValid t = true)

/-- ENC.RESET (41_encoder.md R127): the queue is emptied, `ENC.ck` and everything else stay (so the bytes already
emitted stay emitted); its word. That `ENC.ck` stays is R127's sentence, which the model takes where
93_implementation_defined.md I16 says any value: log 14. -/
def Obligations.EncResetRule : Prop :=
  WordWithoutOperand 0x20 .encReset ∧
  ∀ s : State, exec .encReset s = .next { s with enc := { ck := s.enc.ck, EQ := [] } }

/-- 41_encoder.md R130: a valid request's frame has 9 + n + e wire bytes, e counting the escaped bytes among the
logical ones and, when ESCAPE_CRC is true, the two CRC bytes; so between 9 and 519. For every value of the
parameters. -/
def Obligations.FrameLength : Prop :=
  ∀ (P : Config.Params) (dg : Datagram), validDatagram P dg = true →
    let e := markers (logicalBytes dg) +
      (if P.escapeCrc = true then markers [hiByte (frameCk dg).crc, loByte (frameCk dg).crc] else 0)
    (frame P dg).length = 9 + dg.payload.length + e ∧ 9 ≤ (frame P dg).length ∧ (frame P dg).length ≤ 519

/-- The start marker is the frame's first wire byte and, with ESCAPE_CRC true, the only START that appears unescaped;
the frame leaves no escape pending (30_encoding.md R83). -/
def Obligations.OnlyTheFirstStartIsUnescaped : Prop :=
  ∀ (P : Config.Params) (dg : Datagram), P.escapeCrc = true →
    ∃ rest, frame P dg = Config.START :: rest ∧ unescapedStarts false rest = 0 ∧ escAfter false rest = false

/-- With its escapes removed, a frame after START is its logical content: CMD, LEN, the identifier's four bytes, the
payload, and the checksum of exactly those bytes, high byte first (30_encoding.md R80, R81, R89; 40_checksum.md R110;
41_encoder.md R128). -/
def Obligations.UnescapedFrameIsTheLogicalContent : Prop :=
  ∀ (P : Config.Params) (dg : Datagram), P.escapeCrc = true →
    let body := dg.cmd :: BitVec.ofNat 8 (dg.payload.length + 4) :: (idBytes dg.id ++ dg.payload)
    let F := (ckFinish (ckFold ckReset body)).crc
    ∃ rest, frame P dg = Config.START :: rest ∧ literals false rest = body ++ [hiByte F, loByte F]

/-- ENC.DRAIN (30_encoding.md R97) from any state puts out the whole queue in order and leaves it empty; after a BUILD
it puts out exactly the frame (20_memory.md R73). -/
def Obligations.DrainPutsOutTheQueue : Prop :=
  (∀ s : State, runInstrs (Pseudo.expand .encDrain s) s =
    .next { s with enc := { s.enc with EQ := [] }, sent := s.sent ++ s.enc.EQ }) ∧
  (∀ (s t : State) (dg : Datagram), validDatagram Config.params dg = true → s.enc.EQ = [] →
    exec (.encBuild (buildRequest dg)) s = .next t →
    ∃ u, runInstrs (Pseudo.expand .encDrain t) t = .next u ∧ u.sent = s.sent ++ frame Config.params dg ∧
      u.enc.EQ = [])

/-! ## Decoder -/

/-- DEC.BYTE always steps (42_decoder.md R169), and whatever the byte and the state it leaves every other part of the
machine alone (10_state.md R20), emits or records at most one thing and never both (60_exceptions.md R312), and emits
only in a step from AwaitingCrc1 to Done (R166). -/
def Obligations.DecByteAlwaysStepsAndTouchesOnlyTheDecoder : Prop :=
  ∀ (b : Byte) (s : State), ∃ t, exec (.decByte b) s = .next t ∧
    t.cks = s.cks ∧ t.ckResult = s.ckResult ∧ t.enc = s.enc ∧ t.sent = s.sent ∧ t.finished = s.finished ∧
    t.accessed = s.accessed ∧ t.pending = s.pending ∧ t.freeCtr = s.freeCtr ∧
    ((t.emitted = s.emitted ∧ t.events = s.events ∧ t.dgValid = false) ∨
     (t.emitted = s.emitted ∧ t.dgValid = false ∧ ∃ e, t.events = s.events ++ [e]) ∨
     (t.events = s.events ∧ t.dgValid = true ∧ (∃ dg, t.emitted = s.emitted ++ [dg]) ∧
       s.dec.dstate = .awaitingCrc1 ∧ t.dec.dstate = .done))

/-- 42_decoder.md R151: an unescaped START sets `DEC.dstate` to AwaitingCmd and writes no other register, whatever the
state; a frame in progress (neither AwaitingStart nor Done) is recorded as FRAME_ABANDONED. -/
def Obligations.StartResynchronizes : Prop :=
  ∀ s : State, s.dec.esc = false →
    exec (.decByte 0x2B) s = .next { s with
      dec := { s.dec with dstate := .awaitingCmd }, dgValid := false
      events := s.events ++
        (if s.dec.dstate ≠ .awaitingStart ∧ s.dec.dstate ≠ .done then [.frameAbandoned s.dec.dstate] else []) }

/-- 42_decoder.md R152: an unescaped ESC sets `DEC.esc` and does nothing else, in every state. -/
def Obligations.EscapeArms : Prop :=
  ∀ s : State, s.dec.esc = false →
    exec (.decByte 0x2D) s = .next { s with dec := { s.dec with esc := true }, dgValid := false }

/-- 42_decoder.md R154 and R164: in AwaitingStart and in Done a dispatched byte is ignored; no register changes beyond
`DEC.esc <- 0`. -/
def Obligations.StartAndDoneIgnoreLiterals : Prop :=
  ∀ (b : Byte) (s : State), (s.dec.dstate = .awaitingStart ∨ s.dec.dstate = .done) → isLiteral b s.dec.esc = true →
    exec (.decByte b) s = .next { s with dec := { s.dec with esc := false }, dgValid := false }

/-- AwaitingCmd (42_decoder.md R155): an accepted command is stored, the checksum is reset and seeded with it, and the
next state is AwaitingLen; any other byte drops the frame with BAD_CMD (60_exceptions.md R302) and leaves every other
register as it is (R314). -/
def Obligations.AwaitingCmdRule : Prop :=
  ∀ (b : Byte) (s : State), s.dec.dstate = .awaitingCmd → isLiteral b s.dec.esc = true →
    exec (.decByte b) s = .next (
      if b.toNat ≤ 8 ∨ b = 0x3C then
        { s with
          dec := { s.dec with esc := false, cmd := b, ck := ckUpdate ⟨0xFFFF, false⟩ b, dstate := .awaitingLen }
          dgValid := false }
      else
        { s with
          dec := { s.dec with esc := false, dstate := .awaitingStart }, dgValid := false
          events := s.events ++ [.badCmd b] })

/-- AwaitingLen (42_decoder.md R156), for every value of the parameters: the byte is folded; below 4 it drops the frame
with SHORT_LEN under Reject and counts as an empty payload under TreatAsZero; the payload length is at most 251. What
`DEC.ck` holds after the drop, the byte folded, is log 13. -/
def Obligations.AwaitingLenRule : Prop :=
  (∀ (P : Config.Params) (b : Byte) (d : Dec), d.dstate = .awaitingLen → isLiteral b d.esc = true →
    decByte P b d =
      if b.toNat < 4 ∧ P.shortLen = .reject then
        { dec := { d with esc := false, ck := ckUpdate d.ck b, dstate := .awaitingStart }, emit := none,
          event := some (.shortLen b) }
      else
        { dec := { d with
            esc := false, ck := ckUpdate d.ck b, len := b, plen := if b.toNat < 4 then 0 else b - 4, idx := 0
            dstate := .awaitingId0 }
          emit := none, event := none }) ∧
  (∀ b : Byte, (if b.toNat < 4 then (0 : Byte) else b - 4).toNat = b.toNat - 4 ∧ b.toNat - 4 ≤ 251) ∧
  (∀ (b : Byte) (s : State), s.dec.dstate = .awaitingLen → isLiteral b s.dec.esc = true → 4 ≤ b.toNat →
    exec (.decByte b) s = .next { s with
      dec := { s.dec with
        esc := false, ck := ckUpdate s.dec.ck b, len := b, plen := b - 4, idx := 0, dstate := .awaitingId0 }
      dgValid := false })

/-- AwaitingId0 to AwaitingId3 (42_decoder.md R157 to R160): each folds the byte and writes its eight bits of `DEC.id`,
most significant first; an empty payload skips to the checksum. -/
def Obligations.IdentifierBytesRule : Prop :=
  ∀ (b : Byte) (s : State), isLiteral b s.dec.esc = true →
    (s.dec.dstate = .awaitingId0 → exec (.decByte b) s = .next { s with
      dec := { s.dec with
        esc := false, ck := ckUpdate s.dec.ck b, id := b ++ s.dec.id.extractLsb' 0 24, dstate := .awaitingId1 }
      dgValid := false }) ∧
    (s.dec.dstate = .awaitingId1 → exec (.decByte b) s = .next { s with
      dec := { s.dec with
        esc := false, ck := ckUpdate s.dec.ck b
        id := s.dec.id.extractLsb' 24 8 ++ b ++ s.dec.id.extractLsb' 0 16, dstate := .awaitingId2 }
      dgValid := false }) ∧
    (s.dec.dstate = .awaitingId2 → exec (.decByte b) s = .next { s with
      dec := { s.dec with
        esc := false, ck := ckUpdate s.dec.ck b
        id := s.dec.id.extractLsb' 16 16 ++ b ++ s.dec.id.extractLsb' 0 8, dstate := .awaitingId3 }
      dgValid := false }) ∧
    (s.dec.dstate = .awaitingId3 → exec (.decByte b) s = .next { s with
      dec := { s.dec with
        esc := false, ck := ckUpdate s.dec.ck b, id := s.dec.id.extractLsb' 8 24 ++ b
        dstate := if s.dec.plen = 0 then .awaitingCrc0 else .awaitingData }
      dgValid := false })

/-- AwaitingData (42_decoder.md R161): the byte is folded, goes to DBUF at `DEC.idx` and no other byte of DBUF changes;
`DEC.idx` counts it; the state is left when the incremented count equals `DEC.plen`. That the bytes of DBUF past
`DEC.plen` stay too is log 23 (20_memory.md R61). Where the invariant holds the index
is below `DEC.plen`, which is at most 251, so the first clause's bound excludes no state that a run reaches. -/
def Obligations.AwaitingDataRule : Prop :=
  (∀ (b : Byte) (s : State), s.dec.dstate = .awaitingData → isLiteral b s.dec.esc = true → s.dec.idx.toNat ≤ 250 →
    ∃ buf : Vector Byte 251,
      exec (.decByte b) s = .next { s with
        dec := { s.dec with
          esc := false, ck := ckUpdate s.dec.ck b, DBUF := buf, idx := s.dec.idx + 1
          dstate := if s.dec.idx + 1 = s.dec.plen then .awaitingCrc0 else .awaitingData }
        dgValid := false } ∧
      (s.dec.idx + 1).toNat = s.dec.idx.toNat + 1 ∧
      ∀ i : Fin 251, buf[i] = if i.val = s.dec.idx.toNat then b else s.dec.DBUF[i]) ∧
  (∀ s : State, s.Inv → s.dec.dstate = .awaitingData →
    s.dec.idx.toNat < s.dec.plen.toNat ∧ s.dec.plen.toNat ≤ 251)

/-- AwaitingCrc0 and AwaitingCrc1 (42_decoder.md R162, R163): the high byte is kept without being folded; with the low
byte the two are compared with `ck_finish(DEC.ck)`; a match emits the Datagram of the working registers, with
`dg_valid = 1` and the `dg_*` signals showing it (10_state.md R42), a difference drops the frame with CRC_MISMATCH. What
`DEC.ck` holds after the drop, `ck_finish` applied, is log 13. -/
def Obligations.ReceivedChecksumRule : Prop :=
  ∀ (b : Byte) (s : State), isLiteral b s.dec.esc = true →
    let F := (ckFinish s.dec.ck).crc
    let rx : Word16 := s.dec.rxcrcHi ++ b
    let dg : Datagram := ⟨s.dec.cmd, s.dec.id, s.dec.DBUF.toList.take s.dec.plen.toNat⟩
    (s.dec.dstate = .awaitingCrc0 → exec (.decByte b) s = .next { s with
      dec := { s.dec with esc := false, rxcrcHi := b, dstate := .awaitingCrc1 }, dgValid := false }) ∧
    (s.dec.dstate = .awaitingCrc1 → rx = F → ∃ t, exec (.decByte b) s = .next t ∧ t = { s with
      dec := { s.dec with esc := false, ck := ckFinish s.dec.ck, dstate := .done }, dgValid := true
      emitted := s.emitted ++ [dg] } ∧ dgOut t = dg) ∧
    (s.dec.dstate = .awaitingCrc1 → rx ≠ F → exec (.decByte b) s = .next { s with
      dec := { s.dec with esc := false, ck := ckFinish s.dec.ck, dstate := .awaitingStart }, dgValid := false
      events := s.events ++ [.crcMismatch rx F] })

/-- The complete transition function of `DEC.dstate` under DEC.BYTE with its events (42_decoder.md R168), and that
DEC.RESET and RESET take every state to AwaitingStart; no state has a code from 11 to 15. -/
def Obligations.TransitionTable : Prop :=
  (∀ (b : Byte) (s : State), ∃ t, exec (.decByte b) s = .next t ∧
    t.dec.dstate =
      (if b = 0x2B ∧ s.dec.esc = false then .awaitingCmd
       else if b = 0x2D ∧ s.dec.esc = false then s.dec.dstate
       else nextOnLiteral (decide (b.toNat ≤ 8 ∨ b = 0x3C)) (decide (4 ≤ b.toNat)) (decide (s.dec.plen = 0))
        (decide (s.dec.idx + 1 = s.dec.plen)) (decide (s.dec.rxcrcHi ++ b = (ckFinish s.dec.ck).crc)) s.dec.dstate) ∧
    t.dec.esc = decide (b = 0x2D ∧ s.dec.esc = false) ∧
    t.events = s.events ++
      (if b = 0x2B ∧ s.dec.esc = false then
        (if 1 ≤ s.dec.dstate.code.toNat ∧ s.dec.dstate.code.toNat ≤ 9 then [.frameAbandoned s.dec.dstate] else [])
       else if b = 0x2D ∧ s.dec.esc = false then []
       else if s.dec.dstate = .awaitingCmd ∧ ¬ (b.toNat ≤ 8 ∨ b = 0x3C) then [.badCmd b]
       else if s.dec.dstate = .awaitingLen ∧ b.toNat < 4 then [.shortLen b]
       else if s.dec.dstate = .awaitingCrc1 ∧ s.dec.rxcrcHi ++ b ≠ (ckFinish s.dec.ck).crc then
        [.crcMismatch (s.dec.rxcrcHi ++ b) (ckFinish s.dec.ck).crc]
       else [])) ∧
  (∀ s : State, ∃ t, exec .decReset s = .next t ∧ t.dec.dstate = .awaitingStart) ∧
  (∀ s : State, ∃ t, exec .reset s = .next t ∧ t.dec.dstate = .awaitingStart) ∧
  (∀ st : DState, st.code.toNat ≤ 10)

/-- DEC.RESET (42_decoder.md R167): AwaitingStart with no escape pending; the other decoder registers, and everything
else, stay, and no event is recorded; its word; after it a following START is honoured. -/
def Obligations.DecResetRule : Prop :=
  WordWithoutOperand 0x30 .decReset ∧
  (∀ s : State, exec .decReset s = .next { s with dec := { s.dec with dstate := .awaitingStart, esc := false } }) ∧
  (∀ s : State, ∃ t, runInstrs [.decReset, .decByte 0x2B] s = .next t ∧ t.dec.dstate = .awaitingCmd ∧
    t.events = s.events)

/-- RESET (44_block_control.md R221): from any state, `CKS`, `ck_result`, `ENC.EQ`, `DEC.dstate` and `DEC.esc` take
their reset values, no event is recorded, and nothing that has gone out or is still to come changes; also as a cycle
with `rst = 1`; its word. What the registers it leaves unspecified hold is not stated (log 4). -/
def Obligations.ResetRule : Prop :=
  WordWithoutOperand 0x01 .reset ∧
  ∀ s : State, ∃ t, exec .reset s = .next t ∧
    t.cks = ⟨0xFFFF, false⟩ ∧ t.ckResult = 0xFFFF ∧ t.enc.EQ = [] ∧ t.dec.dstate = .awaitingStart ∧
    t.dec.esc = false ∧ t.emitted = s.emitted ∧ t.sent = s.sent ∧ t.finished = s.finished ∧ t.events = s.events ∧
    t.accessed = s.accessed ∧ t.pending = s.pending ∧
    (∀ p : PortIn, p.rst = true → runCycle p s = .next t) ∧
    ∃ u, runInstrs (Pseudo.expand (.decFeed [0x2B, 0x01, 0x04, 0x40, 0x0F, 0x01, 0x5B, 0x58, 0xB4]) t) t = .next u ∧
      u.emitted = s.emitted ++ [⟨0x01, 0x400F015B, []⟩]

/-- The state after reset holds the values 10_state.md R47 gives (70_reset_and_hazards.md R400, R401). The registers
R47 leaves unspecified are not named (log 3). -/
def Obligations.ResetStateHoldsTheSpecsValues : Prop :=
  State.reset.cks = ⟨0xFFFF, false⟩ ∧ State.reset.ckResult = 0xFFFF ∧ State.reset.enc.EQ = [] ∧
  State.reset.dec.dstate = .awaitingStart ∧ State.reset.dec.esc = false ∧ reqReady State.reset = true ∧
  State.reset.emitted = [] ∧ State.reset.sent = [] ∧ State.reset.finished = [] ∧ State.reset.events = []

/-! ## Headline properties -/

/-- Round trip (41_encoder.md R131): fed the frame of any valid Datagram, a decoder in any state with no escape pending
emits exactly that Datagram, on the last byte and not before, and is left in Done with no escape pending; a frame it was
inside is recorded as abandoned. For every value of the parameters with ESCAPE_CRC true. -/
def Obligations.RoundTrip : Prop :=
  ∀ (P : Config.Params) (dg : Datagram) (d : Dec), P.escapeCrc = true → validDatagram P dg = true → d.esc = false →
    ∃ (bs : List Byte) (b : Byte) (e : Dec), frame P dg = bs ++ [b] ∧
      (decFeed P bs d).2.1 = [] ∧
      decFeed P (frame P dg) d =
        (e, [dg], if d.dstate ≠ .awaitingStart ∧ d.dstate ≠ .done then [.frameAbandoned d.dstate] else []) ∧
      e.dstate = .done ∧ e.esc = false

/-- The round trip on the machine: DEC.FEED of the frame of any valid Datagram, from any state with no escape pending,
emits exactly that Datagram and touches nothing but the decoder and what it shows (41_encoder.md R131; 30_encoding.md
R97); no event is recorded but that of a frame it was inside. -/
def Obligations.FeedingAFrameEmitsItsDatagram : Prop :=
  ∀ (dg : Datagram) (s : State), validDatagram Config.params dg = true → s.dec.esc = false →
    ∃ t, runInstrs (Pseudo.expand (.decFeed (frame Config.params dg)) s) s = .next t ∧
      t.emitted = s.emitted ++ [dg] ∧ t.dgValid = true ∧ dgOut t = dg ∧ t.dec.dstate = .done ∧ t.dec.esc = false ∧
      t.events = s.events ++
        (if s.dec.dstate ≠ .awaitingStart ∧ s.dec.dstate ≠ .done then [.frameAbandoned s.dec.dstate] else []) ∧
      t.cks = s.cks ∧ t.ckResult = s.ckResult ∧ t.enc = s.enc ∧ t.sent = s.sent ∧ t.finished = s.finished ∧
      t.accessed = s.accessed ∧ t.pending = s.pending ∧ t.freeCtr = s.freeCtr

/-- The encoder looped into the decoder (30_encoding.md R97, LOOP.ENC_TO_DEC): after ENC.BUILD of any valid Datagram the
loop puts its whole frame on the wire, empties the queue and makes the decoder emit that Datagram. -/
def Obligations.LoopbackEmitsWhatWasBuilt : Prop :=
  ∀ (dg : Datagram) (s t : State), validDatagram Config.params dg = true → s.dec.esc = false → s.enc.EQ = [] →
    exec (.encBuild (buildRequest dg)) s = .next t →
    ∃ u, runInstrs (Pseudo.expand .loopEncToDec t) t = .next u ∧ u.emitted = s.emitted ++ [dg] ∧
      u.sent = s.sent ++ frame Config.params dg ∧ u.enc.EQ = [] ∧ u.dec.dstate = .done ∧ u.dec.esc = false

/-- Resynchronization (42_decoder.md R170): garbage, a frame, garbage, a frame, where the garbage makes the decoder
emit nothing and leaves no escape pending when each frame's START arrives, emits exactly the two Datagrams in order. -/
def Obligations.GarbageBetweenFramesIsIgnored : Prop :=
  ∀ (P : Config.Params) (d1 d2 : Datagram) (g1 g2 : List Byte) (d : Dec),
    P.escapeCrc = true → validDatagram P d1 = true → validDatagram P d2 = true →
    (decFeed P g1 d).2.1 = [] → (decFeed P g1 d).1.esc = false →
    (decFeed P g2 (decFeed P (g1 ++ frame P d1) d).1).2.1 = [] →
    (decFeed P g2 (decFeed P (g1 ++ frame P d1) d).1).1.esc = false →
    (decFeed P (g1 ++ frame P d1 ++ g2 ++ frame P d2) d).2.1 = [d1, d2]

/-- The stray escape (70_reset_and_hazards.md R411): outside a frame, an unescaped ESC right before a valid frame makes
the decoder lose that whole frame: nothing is emitted, no event is recorded, and it is left where it was with no escape
pending; with DEC.RESET after the ESC the frame is received. -/
def Obligations.StrayEscapeSwallowsTheNextFrame : Prop :=
  ∀ (dg : Datagram) (s : State), validDatagram Config.params dg = true → s.dec.esc = false →
    (s.dec.dstate = .awaitingStart ∨ s.dec.dstate = .done) →
    (∃ t, runInstrs (Pseudo.expand (.decFeed (0x2D :: frame Config.params dg)) s) s = .next t ∧
      t.emitted = s.emitted ∧ t.events = s.events ∧ t.dec = s.dec) ∧
    (∃ t, runInstrs (.decByte 0x2D :: .decReset :: Pseudo.expand (.decFeed (frame Config.params dg)) s) s = .next t ∧
      t.emitted = s.emitted ++ [dg])

/-- With ESCAPE_CRC false, and whatever the other parameters, the frame of a valid Datagram with a marker among its two
checksum bytes is lost: fed to a decoder in any state with no escape pending it emits nothing, and only a frame with none
emits its Datagram (70_reset_and_hazards.md R414; 30_encoding.md R84). An unescaped START resynchronizes: as the low byte
it abandons the frame for a new one, as the high byte too. An ESC is taken as an escape: as the high byte it shifts the
low byte into its place, as the low byte it is left pending. The frames of 95_test_vectors.md V35 and V36 are cases. -/
def Obligations.UnescapedCrcLosesFrames : Prop :=
  (∀ (P : Config.Params) (dg : Datagram) (d : Dec),
    P.escapeCrc = false → validDatagram P dg = true → d.esc = false →
    let hi := hiByte (frameCk dg).crc
    let lo := loByte (frameCk dg).crc
    let marker (b : Byte) : Prop := b = 0x2B ∨ b = 0x2D
    let r := decFeed P (frame P dg) d
    let before : List Event :=
      if d.dstate ≠ .awaitingStart ∧ d.dstate ≠ .done then [.frameAbandoned d.dstate] else []
    (marker hi ∨ marker lo → r.2.1 = []) ∧
    (¬ marker hi → ¬ marker lo → r.2 = ([dg], before) ∧ r.1.dstate = .done ∧ r.1.esc = false) ∧
    (¬ marker hi → lo = 0x2B →
      r.2.2 = before ++ [.frameAbandoned .awaitingCrc1] ∧ r.1.dstate = .awaitingCmd ∧ r.1.esc = false) ∧
    (¬ marker hi → lo = 0x2D → r.2.2 = before ∧ r.1.dstate = .awaitingCrc1 ∧ r.1.esc = true) ∧
    (hi = 0x2B → ∃ after, r.2.2 = before ++ .frameAbandoned .awaitingCrc0 :: after) ∧
    (hi = 0x2D → r.2.2 = before ∧ r.1.dstate = .awaitingCrc1 ∧ r.1.esc = false ∧ r.1.rxcrcHi = lo)) ∧
  (∀ (P : Config.Params) (d : Dec), P.escapeCrc = false → d.dstate = .awaitingStart → d.esc = false →
    (decFeed P (frame P ⟨0x01, 0x0000003E, []⟩) d).2 = ([], [.frameAbandoned .awaitingCrc1]) ∧
    (decFeed P (frame P ⟨0x01, 0x0000003E, []⟩) d).1.dstate = .awaitingCmd ∧
    (decFeed P (frame P ⟨0x01, 0x00000079, []⟩ ++ frame P ⟨0x01, 0x400F015B, []⟩) d).2 =
      ([⟨0x01, 0x400F015B, []⟩], [.frameAbandoned .awaitingCrc1]))

/-- What is emitted was checked (42_decoder.md R163, R165, R166): from a state with the invariant, a DEC.BYTE step that
emits gives one Datagram, with an accepted command and a payload of at most 251 bytes, and the two checksum bytes
received are the checksum field that 30_encoding.md R89 gives for that very Datagram. -/
def Obligations.EmittedDatagramsPassedTheirChecksum : Prop :=
  ∀ (s t : State) (b : Byte), s.Inv → exec (.decByte b) s = .next t → t.emitted ≠ s.emitted →
    ∃ dg : Datagram, t.emitted = s.emitted ++ [dg] ∧ accepted Config.params dg.cmd = true ∧
      dg.payload.length ≤ 251 ∧ s.dec.rxcrcHi ++ b = (frameByPut Config.params dg).2.crc

/-- The invariant holds at reset. -/
def Obligations.ResetMeetsTheInvariant : Prop := State.reset.Inv

/-- Every step keeps the invariant, whatever the port activity (10_state.md R22, R30; 42_decoder.md R165, R166,
R172). -/
def Obligations.StepKeepsTheInvariant : Prop :=
  ∀ s t : State, s.Inv → step s = .next t → t.Inv

/-- 42_decoder.md R172, in every state reachable from RESET under any host: the state's code is in 0..10; `DEC.plen` is
at most 251 once written (wherever the frame has passed its LEN byte, and no operation but RESET writes anything larger);
in AwaitingData `DEC.idx < DEC.plen`; in AwaitingCrc0 and AwaitingCrc1 `DEC.idx = DEC.plen`; from AwaitingLen to
AwaitingData `DEC.ck.par` is the parity of the number of logical bytes received. -/
def Obligations.ReachableDecoderInvariants : Prop :=
  (∀ s : State, Reachable s →
    s.dec.dstate.code.toNat ≤ 10 ∧
    (3 ≤ s.dec.dstate.code.toNat → s.dec.plen.toNat ≤ 251) ∧
    (s.dec.dstate = .awaitingData → s.dec.idx.toNat < s.dec.plen.toNat) ∧
    (s.dec.dstate = .awaitingCrc0 ∨ s.dec.dstate = .awaitingCrc1 → s.dec.idx = s.dec.plen) ∧
    (s.dec.dstate = .awaitingLen → s.dec.ck.par = true) ∧
    (s.dec.dstate = .awaitingId0 → s.dec.ck.par = false) ∧
    (s.dec.dstate = .awaitingId1 → s.dec.ck.par = true) ∧
    (s.dec.dstate = .awaitingId2 → s.dec.ck.par = false) ∧
    (s.dec.dstate = .awaitingId3 → s.dec.ck.par = true) ∧
    (s.dec.dstate = .awaitingData → s.dec.ck.par = decide ((6 + s.dec.idx.toNat) % 2 = 1))) ∧
  (∀ (i : Instr) (s t : State), i ≠ .reset → exec i s = .next t →
    t.dec.plen = s.dec.plen ∨ t.dec.plen.toNat ≤ 251)

/-- No register is read before it is written (10_state.md R47; 42_decoder.md R173): two decoders that agree on their
live registers (R173's, with `DEC.rxcrc_hi`, which its list leaves out: log 25) emit the same Datagrams and record the
same events on every byte sequence, and go on agreeing. So what the unspecified registers hold after RESET shows
nowhere. For every value of the parameters. -/
def Obligations.OnlyLiveRegistersMatter : Prop :=
  ∀ (P : Config.Params) (bs : List Byte) (d e : Dec), d.SameLive e →
    (decFeed P bs d).2 = (decFeed P bs e).2 ∧ (decFeed P bs d).1.SameLive (decFeed P bs e).1

/-- Operations of different units commute (10_state.md R20, R46; 60_exceptions.md R313). -/
def Obligations.UnitsCommute : Prop :=
  ∀ (i j : Instr) (s : State), unitOf i ≠ unitOf j → unitOf i ≠ .all → unitOf j ≠ .all →
    runInstrs [i, j] s = runInstrs [j, i] s

/-- Each unit does what its own operations say and depends on no other unit's (20_memory.md R74): a run, and the same
run without the operations of the other units, leave the same decoder, Datagrams, strobe and events when the decoder's
operations are kept, the same encoder, bytes put out and operations left waiting when the encoder's are, and the same
checksum unit and returned values when the checksum's are. RESET belongs to all three. In a run the strobe is that of the
last DEC.BYTE (log 24). -/
def Obligations.DecoderIgnoresTheOtherUnits : Prop :=
  ∀ (l : List Instr) (s t : State), runInstrs l s = .next t →
    (∃ u, runInstrs (l.filter touchesDec) s = .next u ∧ u.dec = t.dec ∧ u.dgValid = t.dgValid ∧
      u.emitted = t.emitted ∧ u.events = t.events) ∧
    (∃ u, runInstrs (l.filter touchesEnc) s = .next u ∧ u.enc = t.enc ∧ u.sent = t.sent ∧ u.pending = t.pending) ∧
    (∃ u, runInstrs (l.filter touchesCks) s = .next u ∧ u.cks = t.cks ∧ u.ckResult = t.ckResult ∧
      u.finished = t.finished)

/-! ## Command bytes -/

/-- The command codes (30_encoding.md R87, R88): the nine defined codes, none of them START or ESC; the decoder accepts
0x00 to 0x08 and 0x3C, 0x00 only with ACCEPT_CMD_ZERO; a byte that is not accepted leads to a drop where a command is
awaited (60_exceptions.md R302). -/
def Obligations.CommandCodes : Prop :=
  (∀ c : Byte, definedCmd Config.params c = true ↔
    c ∈ ([0x01, 0x02, 0x03, 0x04, 0x05, 0x06, 0x07, 0x08, 0x3C] : List Byte)) ∧
  (∀ c : Byte, definedCmd Config.params c = true → c ≠ 0x2B ∧ c ≠ 0x2D) ∧
  (∀ c : Byte, accepted Config.params c = true ↔ c.toNat ≤ 8 ∨ c = 0x3C) ∧
  (∀ (P : Config.Params) (c : Byte), accepted P c = true ↔
    ((c.toNat ≤ 8 ∧ (c ≠ 0x00 ∨ P.acceptCmdZero = true)) ∨ c = P.extCode)) ∧
  (∀ (P : Config.Params) (c : Byte) (d : Dec), d.dstate = .awaitingCmd → isLiteral c d.esc = true →
    accepted P c = false →
    decByte P c d =
      { dec := { d with esc := false, dstate := .awaitingStart }, emit := none, event := some (.badCmd c) })

/-- The ten command rows (30_encoding.md R87, R88; log 5): each is the byte of its code on the decoder input, doing what
DEC.BYTE of that code does in every state (10_state.md R41), and completing in every state. -/
def Obligations.CommandBytesAreDecByte : Prop :=
  ∀ s : State, ∀ row ∈ ([(.cmdRead, 0x01), (.cmdWrite, 0x02), (.cmdLongWrite, 0x03), (.cmdReserved1, 0x04),
      (.cmdResponse, 0x05), (.cmdLongResponse, 0x06), (.cmdReserved2, 0x07), (.cmdReadPeriodically, 0x08),
      (.cmdExtension, 0x3C), (.cmdZero, 0x00)] : List (Instr × Byte)),
    encode row.1 = .wire row.2 ∧ exec row.1 s = exec (.decByte row.2) s ∧ ∃ t, exec row.1 s = .next t

/-- A command byte where a command is awaited (42_decoder.md R155): each of the ten rows completes, storing its code,
resetting and seeding the checksum, and going on to AwaitingLen, with nothing else changed (log 5). -/
def Obligations.CommandBytesStartAFrame : Prop :=
  ∀ s : State, s.dec.dstate = .awaitingCmd →
    let after (c : Byte) : State :=
      { s with
        dec := { s.dec with esc := false, cmd := c, ck := ckUpdate ⟨0xFFFF, false⟩ c, dstate := .awaitingLen }
        dgValid := false }
    exec .cmdRead s = .next (after 0x01) ∧ exec .cmdWrite s = .next (after 0x02) ∧
    exec .cmdLongWrite s = .next (after 0x03) ∧ exec .cmdReserved1 s = .next (after 0x04) ∧
    exec .cmdResponse s = .next (after 0x05) ∧ exec .cmdLongResponse s = .next (after 0x06) ∧
    exec .cmdReserved2 s = .next (after 0x07) ∧ exec .cmdReadPeriodically s = .next (after 0x08) ∧
    exec .cmdExtension s = .next (after 0x3C) ∧ exec .cmdZero s = .next (after 0x00)

/-! ## Accessors -/

/-- AS.U8 (43_payload_accessors.md R200, R201): the one byte's value, or WRONG_LENGTH when the length is not 1; the
call changes nothing but the host's results (log 6). -/
def Obligations.AsU8Rule : Prop :=
  ∀ (dg : Datagram) (s : State),
    (∀ b, dg.payload = [b] → exec (.asU8 dg) s = .next { s with accessed := s.accessed ++ [.okU8 b.toNat] }) ∧
    (dg.payload.length ≠ 1 → exec (.asU8 dg) s = .next { s with accessed := s.accessed ++ [.wrongLength] })

/-- AS.U16 (R200, R202): big-endian, or WRONG_LENGTH when the length is not 2. -/
def Obligations.AsU16Rule : Prop :=
  ∀ (dg : Datagram) (s : State),
    (∀ p0 p1, dg.payload = [p0, p1] →
      exec (.asU16 dg) s = .next { s with accessed := s.accessed ++ [.okU16 (p0.toNat * 256 + p1.toNat)] }) ∧
    (dg.payload.length ≠ 2 → exec (.asU16 dg) s = .next { s with accessed := s.accessed ++ [.wrongLength] })

/-- AS.I32 (R200, R203): big-endian, bit 31 the sign in two's complement, or WRONG_LENGTH when the length is not 4. -/
def Obligations.AsI32Rule : Prop :=
  ∀ (dg : Datagram) (s : State),
    (∀ p0 p1 p2 p3, dg.payload = [p0, p1, p2, p3] →
      let n : Int := p0.toNat * 2 ^ 24 + p1.toNat * 2 ^ 16 + p2.toNat * 2 ^ 8 + p3.toNat
      exec (.asI32 dg) s = .next { s with
        accessed := s.accessed ++ [.okI32 (if p0.toNat < 128 then n else n - 2 ^ 32)] }) ∧
    (dg.payload.length ≠ 4 → exec (.asI32 dg) s = .next { s with accessed := s.accessed ++ [.wrongLength] })

/-- AS.F32 (R200, R204): the pattern, big-endian and unchanged, bit 31 the sign, bits [30:23] the exponent and bits
[22:0] the fraction of its binary32 reading, or WRONG_LENGTH when the length is not 4. -/
def Obligations.AsF32Rule : Prop :=
  ∀ (dg : Datagram) (s : State),
    (∀ p0 p1 p2 p3 : Byte, dg.payload = [p0, p1, p2, p3] →
      exec (.asF32 dg) s = .next { s with accessed := s.accessed ++ [.okF32 (p0 ++ p1 ++ p2 ++ p3)] } ∧
      f32Sign (p0 ++ p1 ++ p2 ++ p3) = decide (128 ≤ p0.toNat) ∧
      (f32Exponent (p0 ++ p1 ++ p2 ++ p3)).toNat = p0.toNat % 128 * 2 + p1.toNat / 128 ∧
      (f32Fraction (p0 ++ p1 ++ p2 ++ p3)).toNat = p1.toNat % 128 * 2 ^ 16 + p2.toNat * 2 ^ 8 + p3.toNat) ∧
    (dg.payload.length ≠ 4 → exec (.asF32 dg) s = .next { s with accessed := s.accessed ++ [.wrongLength] })
end

