-- ==== Sys2Proof/Laws/State.lean ====
section
/-! SUPPORT. One lemma per field of State per update, so that no proof unfolds a record update. -/

namespace Sys2Proof.Machine

variable (s : State)

/-! ### State.setCks -/

@[simp] theorem State.setCks_cks (k : Ck) : (s.setCks k).cks = k := rfl
@[simp] theorem State.setCks_ckResult (k : Ck) : (s.setCks k).ckResult = s.ckResult := rfl
@[simp] theorem State.setCks_enc (k : Ck) : (s.setCks k).enc = s.enc := rfl
@[simp] theorem State.setCks_dec (k : Ck) : (s.setCks k).dec = s.dec := rfl
@[simp] theorem State.setCks_dgValid (k : Ck) : (s.setCks k).dgValid = s.dgValid := rfl
@[simp] theorem State.setCks_emitted (k : Ck) : (s.setCks k).emitted = s.emitted := rfl
@[simp] theorem State.setCks_sent (k : Ck) : (s.setCks k).sent = s.sent := rfl
@[simp] theorem State.setCks_finished (k : Ck) : (s.setCks k).finished = s.finished := rfl
@[simp] theorem State.setCks_events (k : Ck) : (s.setCks k).events = s.events := rfl
@[simp] theorem State.setCks_accessed (k : Ck) : (s.setCks k).accessed = s.accessed := rfl
@[simp] theorem State.setCks_pending (k : Ck) : (s.setCks k).pending = s.pending := rfl
@[simp] theorem State.setCks_freeCtr (k : Ck) : (s.setCks k).freeCtr = s.freeCtr := rfl

/-! ### State.returnCk -/

@[simp] theorem State.returnCk_cks (k : Ck) : (s.returnCk k).cks = k := rfl
@[simp] theorem State.returnCk_ckResult (k : Ck) : (s.returnCk k).ckResult = k.crc := rfl
@[simp] theorem State.returnCk_enc (k : Ck) : (s.returnCk k).enc = s.enc := rfl
@[simp] theorem State.returnCk_dec (k : Ck) : (s.returnCk k).dec = s.dec := rfl
@[simp] theorem State.returnCk_dgValid (k : Ck) : (s.returnCk k).dgValid = s.dgValid := rfl
@[simp] theorem State.returnCk_emitted (k : Ck) : (s.returnCk k).emitted = s.emitted := rfl
@[simp] theorem State.returnCk_sent (k : Ck) : (s.returnCk k).sent = s.sent := rfl
@[simp] theorem State.returnCk_finished (k : Ck) : (s.returnCk k).finished = s.finished ++ [k.crc] := rfl
@[simp] theorem State.returnCk_events (k : Ck) : (s.returnCk k).events = s.events := rfl
@[simp] theorem State.returnCk_accessed (k : Ck) : (s.returnCk k).accessed = s.accessed := rfl
@[simp] theorem State.returnCk_pending (k : Ck) : (s.returnCk k).pending = s.pending := rfl
@[simp] theorem State.returnCk_freeCtr (k : Ck) : (s.returnCk k).freeCtr = s.freeCtr := rfl

/-! ### State.setEnc -/

@[simp] theorem State.setEnc_cks (e : Enc) : (s.setEnc e).cks = s.cks := rfl
@[simp] theorem State.setEnc_ckResult (e : Enc) : (s.setEnc e).ckResult = s.ckResult := rfl
@[simp] theorem State.setEnc_enc (e : Enc) : (s.setEnc e).enc = e := rfl
@[simp] theorem State.setEnc_dec (e : Enc) : (s.setEnc e).dec = s.dec := rfl
@[simp] theorem State.setEnc_dgValid (e : Enc) : (s.setEnc e).dgValid = s.dgValid := rfl
@[simp] theorem State.setEnc_emitted (e : Enc) : (s.setEnc e).emitted = s.emitted := rfl
@[simp] theorem State.setEnc_sent (e : Enc) : (s.setEnc e).sent = s.sent := rfl
@[simp] theorem State.setEnc_finished (e : Enc) : (s.setEnc e).finished = s.finished := rfl
@[simp] theorem State.setEnc_events (e : Enc) : (s.setEnc e).events = s.events := rfl
@[simp] theorem State.setEnc_accessed (e : Enc) : (s.setEnc e).accessed = s.accessed := rfl
@[simp] theorem State.setEnc_pending (e : Enc) : (s.setEnc e).pending = s.pending := rfl
@[simp] theorem State.setEnc_freeCtr (e : Enc) : (s.setEnc e).freeCtr = s.freeCtr := rfl

/-! ### State.emitByte -/

@[simp] theorem State.emitByte_cks (b : Byte) (q : List Byte) : (s.emitByte b q).cks = s.cks := rfl
@[simp] theorem State.emitByte_ckResult (b : Byte) (q : List Byte) : (s.emitByte b q).ckResult = s.ckResult := rfl
@[simp] theorem State.emitByte_enc (b : Byte) (q : List Byte) : (s.emitByte b q).enc = { s.enc with EQ := q } := rfl
@[simp] theorem State.emitByte_dec (b : Byte) (q : List Byte) : (s.emitByte b q).dec = s.dec := rfl
@[simp] theorem State.emitByte_dgValid (b : Byte) (q : List Byte) : (s.emitByte b q).dgValid = s.dgValid := rfl
@[simp] theorem State.emitByte_emitted (b : Byte) (q : List Byte) : (s.emitByte b q).emitted = s.emitted := rfl
@[simp] theorem State.emitByte_sent (b : Byte) (q : List Byte) : (s.emitByte b q).sent = s.sent ++ [b] := rfl
@[simp] theorem State.emitByte_finished (b : Byte) (q : List Byte) : (s.emitByte b q).finished = s.finished := rfl
@[simp] theorem State.emitByte_events (b : Byte) (q : List Byte) : (s.emitByte b q).events = s.events := rfl
@[simp] theorem State.emitByte_accessed (b : Byte) (q : List Byte) : (s.emitByte b q).accessed = s.accessed := rfl
@[simp] theorem State.emitByte_pending (b : Byte) (q : List Byte) : (s.emitByte b q).pending = s.pending := rfl
@[simp] theorem State.emitByte_freeCtr (b : Byte) (q : List Byte) : (s.emitByte b q).freeCtr = s.freeCtr := rfl

/-! ### State.setDec -/

@[simp] theorem State.setDec_cks (d : Dec) : (s.setDec d).cks = s.cks := rfl
@[simp] theorem State.setDec_ckResult (d : Dec) : (s.setDec d).ckResult = s.ckResult := rfl
@[simp] theorem State.setDec_enc (d : Dec) : (s.setDec d).enc = s.enc := rfl
@[simp] theorem State.setDec_dec (d : Dec) : (s.setDec d).dec = d := rfl
@[simp] theorem State.setDec_dgValid (d : Dec) : (s.setDec d).dgValid = s.dgValid := rfl
@[simp] theorem State.setDec_emitted (d : Dec) : (s.setDec d).emitted = s.emitted := rfl
@[simp] theorem State.setDec_sent (d : Dec) : (s.setDec d).sent = s.sent := rfl
@[simp] theorem State.setDec_finished (d : Dec) : (s.setDec d).finished = s.finished := rfl
@[simp] theorem State.setDec_events (d : Dec) : (s.setDec d).events = s.events := rfl
@[simp] theorem State.setDec_accessed (d : Dec) : (s.setDec d).accessed = s.accessed := rfl
@[simp] theorem State.setDec_pending (d : Dec) : (s.setDec d).pending = s.pending := rfl
@[simp] theorem State.setDec_freeCtr (d : Dec) : (s.setDec d).freeCtr = s.freeCtr := rfl

/-! ### State.applyDec -/

@[simp] theorem State.applyDec_cks (r : DecStep) : (s.applyDec r).cks = s.cks := rfl
@[simp] theorem State.applyDec_ckResult (r : DecStep) : (s.applyDec r).ckResult = s.ckResult := rfl
@[simp] theorem State.applyDec_enc (r : DecStep) : (s.applyDec r).enc = s.enc := rfl
@[simp] theorem State.applyDec_dec (r : DecStep) : (s.applyDec r).dec = r.dec := rfl
@[simp] theorem State.applyDec_dgValid (r : DecStep) : (s.applyDec r).dgValid = r.emit.isSome := rfl
@[simp] theorem State.applyDec_emitted (r : DecStep) : (s.applyDec r).emitted = s.emitted ++ r.emit.toList := rfl
@[simp] theorem State.applyDec_sent (r : DecStep) : (s.applyDec r).sent = s.sent := rfl
@[simp] theorem State.applyDec_finished (r : DecStep) : (s.applyDec r).finished = s.finished := rfl
@[simp] theorem State.applyDec_events (r : DecStep) : (s.applyDec r).events = s.events ++ r.event.toList := rfl
@[simp] theorem State.applyDec_accessed (r : DecStep) : (s.applyDec r).accessed = s.accessed := rfl
@[simp] theorem State.applyDec_pending (r : DecStep) : (s.applyDec r).pending = s.pending := rfl
@[simp] theorem State.applyDec_freeCtr (r : DecStep) : (s.applyDec r).freeCtr = s.freeCtr := rfl

/-! ### State.returnAcc -/

@[simp] theorem State.returnAcc_cks (r : AccResult) : (s.returnAcc r).cks = s.cks := rfl
@[simp] theorem State.returnAcc_ckResult (r : AccResult) : (s.returnAcc r).ckResult = s.ckResult := rfl
@[simp] theorem State.returnAcc_enc (r : AccResult) : (s.returnAcc r).enc = s.enc := rfl
@[simp] theorem State.returnAcc_dec (r : AccResult) : (s.returnAcc r).dec = s.dec := rfl
@[simp] theorem State.returnAcc_dgValid (r : AccResult) : (s.returnAcc r).dgValid = s.dgValid := rfl
@[simp] theorem State.returnAcc_emitted (r : AccResult) : (s.returnAcc r).emitted = s.emitted := rfl
@[simp] theorem State.returnAcc_sent (r : AccResult) : (s.returnAcc r).sent = s.sent := rfl
@[simp] theorem State.returnAcc_finished (r : AccResult) : (s.returnAcc r).finished = s.finished := rfl
@[simp] theorem State.returnAcc_events (r : AccResult) : (s.returnAcc r).events = s.events := rfl
@[simp] theorem State.returnAcc_accessed (r : AccResult) : (s.returnAcc r).accessed = s.accessed ++ [r] := rfl
@[simp] theorem State.returnAcc_pending (r : AccResult) : (s.returnAcc r).pending = s.pending := rfl
@[simp] theorem State.returnAcc_freeCtr (r : AccResult) : (s.returnAcc r).freeCtr = s.freeCtr := rfl

/-! ### State.resetBlock -/

@[simp] theorem State.resetBlock_cks : (s.resetBlock).cks = ckReset := rfl
@[simp] theorem State.resetBlock_ckResult : (s.resetBlock).ckResult = 0xFFFF := rfl
@[simp] theorem State.resetBlock_enc : (s.resetBlock).enc = Enc.unspecified s.freeCtr := rfl
@[simp] theorem State.resetBlock_dec : (s.resetBlock).dec = Dec.unspecified s.freeCtr := rfl
@[simp] theorem State.resetBlock_dgValid : (s.resetBlock).dgValid = s.dgValid := rfl
@[simp] theorem State.resetBlock_emitted : (s.resetBlock).emitted = s.emitted := rfl
@[simp] theorem State.resetBlock_sent : (s.resetBlock).sent = s.sent := rfl
@[simp] theorem State.resetBlock_finished : (s.resetBlock).finished = s.finished := rfl
@[simp] theorem State.resetBlock_events : (s.resetBlock).events = s.events := rfl
@[simp] theorem State.resetBlock_accessed : (s.resetBlock).accessed = s.accessed := rfl
@[simp] theorem State.resetBlock_pending : (s.resetBlock).pending = s.pending := rfl
@[simp] theorem State.resetBlock_freeCtr : (s.resetBlock).freeCtr = s.freeCtr + 1 := rfl

/-! ### State.beginStep -/

@[simp] theorem State.beginStep_cks (rest : List Input) : (s.beginStep rest).cks = s.cks := rfl
@[simp] theorem State.beginStep_ckResult (rest : List Input) : (s.beginStep rest).ckResult = s.ckResult := rfl
@[simp] theorem State.beginStep_enc (rest : List Input) : (s.beginStep rest).enc = s.enc := rfl
@[simp] theorem State.beginStep_dec (rest : List Input) : (s.beginStep rest).dec = s.dec := rfl
@[simp] theorem State.beginStep_dgValid (rest : List Input) : (s.beginStep rest).dgValid = false := rfl
@[simp] theorem State.beginStep_emitted (rest : List Input) : (s.beginStep rest).emitted = s.emitted := rfl
@[simp] theorem State.beginStep_sent (rest : List Input) : (s.beginStep rest).sent = s.sent := rfl
@[simp] theorem State.beginStep_finished (rest : List Input) : (s.beginStep rest).finished = s.finished := rfl
@[simp] theorem State.beginStep_events (rest : List Input) : (s.beginStep rest).events = s.events := rfl
@[simp] theorem State.beginStep_accessed (rest : List Input) : (s.beginStep rest).accessed = s.accessed := rfl
@[simp] theorem State.beginStep_pending (rest : List Input) : (s.beginStep rest).pending = rest := rfl
@[simp] theorem State.beginStep_freeCtr (rest : List Input) : (s.beginStep rest).freeCtr = s.freeCtr + 1 := rfl

/-! ### State.wait -/

@[simp] theorem State.wait_cks (ops : List Instr) : (s.wait ops).cks = s.cks := rfl
@[simp] theorem State.wait_ckResult (ops : List Instr) : (s.wait ops).ckResult = s.ckResult := rfl
@[simp] theorem State.wait_enc (ops : List Instr) : (s.wait ops).enc = s.enc := rfl
@[simp] theorem State.wait_dec (ops : List Instr) : (s.wait ops).dec = s.dec := rfl
@[simp] theorem State.wait_dgValid (ops : List Instr) : (s.wait ops).dgValid = s.dgValid := rfl
@[simp] theorem State.wait_emitted (ops : List Instr) : (s.wait ops).emitted = s.emitted := rfl
@[simp] theorem State.wait_sent (ops : List Instr) : (s.wait ops).sent = s.sent := rfl
@[simp] theorem State.wait_finished (ops : List Instr) : (s.wait ops).finished = s.finished := rfl
@[simp] theorem State.wait_events (ops : List Instr) : (s.wait ops).events = s.events := rfl
@[simp] theorem State.wait_accessed (ops : List Instr) : (s.wait ops).accessed = s.accessed := rfl
@[simp] theorem State.wait_pending (ops : List Instr) :
    (s.wait ops).pending = (ops.map fun i => Input.code (encode i)) ++ s.pending := rfl
@[simp] theorem State.wait_freeCtr (ops : List Instr) : (s.wait ops).freeCtr = s.freeCtr := rfl
@[simp] theorem State.wait_nil : s.wait [] = s := rfl

end Sys2Proof.Machine
end

