-- ==== Sys2Proof/Laws/Checksum.lean ====
section
/-! SUPPORT. What the checksum primitives do (40_checksum.md R101 to R103, R109). -/

namespace Sys2Proof.Machine

@[simp] theorem ckUpdate_crc (K : Ck) (b : Byte) : (ckUpdate K b).crc = crcByte K.crc b := rfl

@[simp] theorem ckUpdate_par (K : Ck) (b : Byte) : (ckUpdate K b).par = !K.par := rfl

@[simp] theorem ckReset_crc : ckReset.crc = 0xFFFF := rfl

@[simp] theorem ckReset_par : ckReset.par = false := rfl

theorem ckFinish_odd {K : Ck} (h : K.par = true) : ckFinish K = ⟨crcByte K.crc 0x00, false⟩ := by
  simp [ckFinish, padDue, ckUpdate, parAfterUpdate, h]

theorem ckFinish_even {K : Ck} (h : K.par = false) : ckFinish K = K := by simp [ckFinish, padDue, h]

/-- A finished instance has even parity (R102). -/
@[simp] theorem ckFinish_par (K : Ck) : (ckFinish K).par = false := by
  cases h : K.par
  · rw [ckFinish_even h, h]
  · rw [ckFinish_odd h]

/-- `ck_finish` twice is `ck_finish` once (R109). -/
@[simp] theorem ckFinish_ckFinish (K : Ck) : ckFinish (ckFinish K) = ckFinish K := ckFinish_even (ckFinish_par K)

@[simp] theorem ckFold_nil (K : Ck) : ckFold K [] = K := rfl

@[simp] theorem ckFold_cons (K : Ck) (b : Byte) (bs : List Byte) : ckFold K (b :: bs) = ckFold (ckUpdate K b) bs := rfl

theorem ckFold_append (K : Ck) (as bs : List Byte) : ckFold K (as ++ bs) = ckFold (ckFold K as) bs := by
  simp [ckFold]

theorem ckFold_snoc (K : Ck) (bs : List Byte) (b : Byte) : ckFold K (bs ++ [b]) = ckUpdate (ckFold K bs) b := by
  simp [ckFold_append]

end Sys2Proof.Machine
end

