-- ==== Sys2Proof/Laws/Frame.lean ====
section
/-! SUPPORT. What the escape function and the byte slices do (30_encoding.md R82 to R86; 20_memory.md R64, R65). -/

namespace Sys2Proof.Machine

/-- A byte is escaped or it is no marker (R82). -/
theorem escByte_cases (b : Byte) :
    (escByte b = [Config.ESC, b] ∧ (b = Config.START ∨ b = Config.ESC)) ∨
    (escByte b = [b] ∧ b ≠ Config.START ∧ b ≠ Config.ESC) := by
  by_cases h : b = Config.START ∨ b = Config.ESC
  · exact .inl ⟨if_pos h, h⟩
  · exact .inr ⟨if_neg h, not_or.mp h⟩

@[simp] theorem hiByte_join16 (h l : Byte) : hiByte (join16 h l) = h := by
  apply BitVec.eq_of_getLsbD_eq
  intro i hi
  simp only [hiByte, join16, BitVec.getLsbD_extractLsb', BitVec.getLsbD_append]
  simp [hi]

@[simp] theorem loByte_join16 (h l : Byte) : loByte (join16 h l) = l := by
  apply BitVec.eq_of_getLsbD_eq
  intro i hi
  simp only [loByte, join16, BitVec.getLsbD_extractLsb', BitVec.getLsbD_append]
  simp [hi]

@[simp] theorem join16_hiByte_loByte (v : Word16) : join16 (hiByte v) (loByte v) = v := by
  apply BitVec.eq_of_getLsbD_eq
  intro i hi
  simp only [hiByte, loByte, join16, BitVec.getLsbD_extractLsb', BitVec.getLsbD_append]
  grind

@[simp] theorem id3_join32 (a b c d : Byte) : id3 (join32 a b c d) = a := by
  apply BitVec.eq_of_getLsbD_eq
  intro i hi
  simp only [id3, join32, BitVec.getLsbD_extractLsb', BitVec.getLsbD_append]
  grind

@[simp] theorem id2_join32 (a b c d : Byte) : id2 (join32 a b c d) = b := by
  apply BitVec.eq_of_getLsbD_eq
  intro i hi
  simp only [id2, join32, BitVec.getLsbD_extractLsb', BitVec.getLsbD_append]
  grind

@[simp] theorem id1_join32 (a b c d : Byte) : id1 (join32 a b c d) = c := by
  apply BitVec.eq_of_getLsbD_eq
  intro i hi
  simp only [id1, join32, BitVec.getLsbD_extractLsb', BitVec.getLsbD_append]
  grind

@[simp] theorem id0_join32 (a b c d : Byte) : id0 (join32 a b c d) = d := by
  apply BitVec.eq_of_getLsbD_eq
  intro i hi
  simp only [id0, join32, BitVec.getLsbD_extractLsb', BitVec.getLsbD_append]
  grind

/-- An identifier is its four bytes, most significant first (R86). -/
@[simp] theorem join32_id (id : Word32) : join32 (id3 id) (id2 id) (id1 id) (id0 id) = id := by
  apply BitVec.eq_of_getLsbD_eq
  intro i hi
  simp only [id0, id1, id2, id3, join32, BitVec.getLsbD_extractLsb', BitVec.getLsbD_append]
  grind

/-- The length byte of a payload that fits is no less than 4 and gives the payload length back (R85, R156). -/
theorem lenByte_toNat {n : Nat} (h : n ≤ Config.MAX_PAYLOAD) : (lenByte n).toNat = n + 4 := by
  simp only [Config.MAX_PAYLOAD] at h
  simp [lenByte, Config.LEN_BIAS]
  omega

theorem plenOf_toNat (b : Byte) : (plenOf b).toNat = b.toNat - 4 := by
  unfold plenOf
  split
  · simp_all [Config.LEN_BIAS]
    omega
  · simp_all [Config.LEN_BIAS, BitVec.toNat_sub]
    omega

theorem plenOf_le (b : Byte) : (plenOf b).toNat ≤ Config.MAX_PAYLOAD := by
  rw [plenOf_toNat]
  have := b.isLt
  simp only [Config.MAX_PAYLOAD]
  omega

theorem plenOf_lenByte {n : Nat} (h : n ≤ Config.MAX_PAYLOAD) : (plenOf (lenByte n)).toNat = n := by
  rw [plenOf_toNat, lenByte_toNat h]
  omega

end Sys2Proof.Machine
end

