-- ==== Sys2Proof/Laws/Decoder.lean ====
section
/-! SUPPORT. What one DEC.BYTE and a sequence of them do to the decoder (42_decoder.md R150 to R153). -/

namespace Sys2Proof.Machine

/-! ### The parts of a decoder step -/

@[simp] theorem quietly_dec (d : Dec) : (quietly d).dec = d := rfl
@[simp] theorem quietly_emit (d : Dec) : (quietly d).emit = none := rfl
@[simp] theorem quietly_event (d : Dec) : (quietly d).event = none := rfl
@[simp] theorem drop_dec (d : Dec) (e : Event) : (drop d e).dec = { d with dstate := .awaitingStart } := rfl
@[simp] theorem drop_emit (d : Dec) (e : Event) : (drop d e).emit = none := rfl
@[simp] theorem drop_event (d : Dec) (e : Event) : (drop d e).event = some e := rfl
@[simp] theorem resync_dec (d : Dec) : (resync d).dec = { d with dstate := .awaitingCmd } := rfl
@[simp] theorem resync_emit (d : Dec) : (resync d).emit = none := rfl

variable (P : Config.Params)

/-- Step 1 (R151). -/
theorem decByte_start {d : Dec} (h : d.esc = false) : decByte P Config.START d = resync d := by
  simp [decByte, isUnescapedStart, h]

/-- Step 2 (R152). -/
theorem decByte_esc {d : Dec} (h : d.esc = false) : decByte P Config.ESC d = quietly { d with esc := true } := by
  simp [decByte, isUnescapedStart, isUnescapedEsc, h, Config.START, Config.ESC]

/-- Step 3 (R153). -/
theorem decByte_literal {b : Byte} {d : Dec} (h : isLiteral b d.esc = true) :
    decByte P b d = dispatch P b { d with esc := false } := by
  simp [isLiteral] at h
  simp [decByte, h]

/-- A byte after an escape is a literal, whatever its value (R153). -/
theorem isLiteral_escaped (b : Byte) : isLiteral b true = true := by
  simp [isLiteral, isUnescapedStart, isUnescapedEsc]

/-- A byte that is no marker is a literal (R153). -/
theorem isLiteral_of_ne {b : Byte} (hs : b ≠ Config.START) (he : b ≠ Config.ESC) (esc : Bool) :
    isLiteral b esc = true := by
  simp [isLiteral, isUnescapedStart, isUnescapedEsc, hs, he]

/-- Everything one DEC.BYTE can be. -/
theorem decByte_cases (b : Byte) (d : Dec) :
    (b = Config.START ∧ d.esc = false ∧ decByte P b d = resync d) ∨
    (b = Config.ESC ∧ d.esc = false ∧ decByte P b d = quietly { d with esc := true }) ∨
    (isLiteral b d.esc = true ∧ decByte P b d = dispatch P b { d with esc := false }) := by
  by_cases hl : isLiteral b d.esc = true
  · exact .inr (.inr ⟨hl, decByte_literal P hl⟩)
  · cases he : d.esc
    · by_cases hs : b = Config.START
      · subst hs
        exact .inl ⟨rfl, rfl, decByte_start P he⟩
      · by_cases hb : b = Config.ESC
        · subst hb
          exact .inr (.inl ⟨rfl, rfl, decByte_esc P he⟩)
        · exact absurd (isLiteral_of_ne hs hb _) hl
    · rw [he] at hl
      exact absurd (isLiteral_escaped b) hl

@[simp] theorem decFeed_nil (d : Dec) : decFeed P [] d = (d, [], []) := rfl

theorem decFeed_cons (b : Byte) (bs : List Byte) (d : Dec) :
    decFeed P (b :: bs) d =
      ((decFeed P bs (decByte P b d).dec).1,
       (decByte P b d).emit.toList ++ (decFeed P bs (decByte P b d).dec).2.1,
       (decByte P b d).event.toList ++ (decFeed P bs (decByte P b d).dec).2.2) := rfl

/-- Feeding two sequences is feeding one after the other (20_memory.md R77). -/
theorem decFeed_append (as bs : List Byte) (d : Dec) :
    decFeed P (as ++ bs) d =
      ((decFeed P bs (decFeed P as d).1).1,
       (decFeed P as d).2.1 ++ (decFeed P bs (decFeed P as d).1).2.1,
       (decFeed P as d).2.2 ++ (decFeed P bs (decFeed P as d).1).2.2) := by
  induction as generalizing d with
  | nil => simp
  | cons b as ih => simp [decFeed_cons, ih]

/-- The wire form of one logical byte reaches the handler once, as its literal value, and leaves no escape pending
(R82, R153). -/
theorem decFeed_escByte (b : Byte) {d : Dec} (h : d.esc = false) :
    decFeed P (escByte b) d =
      ((dispatch P b d).dec, (dispatch P b d).emit.toList, (dispatch P b d).event.toList) := by
  have hd : { d with esc := false } = d := by cases d; simp_all
  rcases escByte_cases b with ⟨e, -⟩ | ⟨e, hs, he⟩
  · have hl : isLiteral b ({ d with esc := true } : Dec).esc = true := isLiteral_escaped b
    have hx : { ({ d with esc := true } : Dec) with esc := false } = d := hd
    have hq : decByte P b (quietly { d with esc := true }).dec = dispatch P b d := by
      rw [quietly, decByte_literal P hl, hx]
    rw [e, decFeed_cons, decByte_esc P h, decFeed_cons, hq]
    simp [quietly]
  · rw [e, decFeed_cons, decByte_literal P (isLiteral_of_ne hs he _), hd]
    simp

end Sys2Proof.Machine
end

