-- ==== Sys2Proof/Laws/Exec.lean ====
section
/-! SUPPORT. What exec, runs of operations and step do. -/

namespace Sys2Proof.Machine

@[simp] theorem exec_idle (s : State) : exec .idle s = .next s := rfl

@[simp] theorem exec_reset (s : State) : exec .reset s = .next s.resetBlock := rfl

@[simp] theorem exec_ckReset (s : State) : exec .ckReset s = .next (s.setCks ckReset) := rfl

@[simp] theorem exec_ckUpdate (b : Byte) (s : State) :
    exec (.ckUpdate b) s = .next (s.setCks (ckUpdate s.cks b)) := rfl

@[simp] theorem exec_ckFinish (s : State) : exec .ckFinish s = .next (s.returnCk (ckFinish s.cks)) := rfl

@[simp] theorem exec_encReset (s : State) : exec .encReset s = .next (s.setEnc { s.enc with EQ := [] }) := rfl

@[simp] theorem exec_decReset (s : State) :
    exec .decReset s = .next (s.setDec { s.dec with dstate := .awaitingStart, esc := false }) := rfl

@[simp] theorem exec_decByte (b : Byte) (s : State) :
    exec (.decByte b) s = .next (s.applyDec (decByte Config.params b s.dec)) := rfl

/-- ENC.BUILD of an invalid request (41_encoder.md R124). -/
theorem exec_encBuild_invalid {r : Request} (s : State) (h : validRequest Config.params r = false) :
    exec (.encBuild r) s = .refused .invalidRequest := by
  simp [exec, execEncBuild, h]

/-- ENC.BUILD on a busy encoder (R123). -/
theorem exec_encBuild_busy {r : Request} {s : State} (h : validRequest Config.params r = true)
    (hq : s.enc.EQ ≠ []) : exec (.encBuild r) s = .next s := by
  cases hc : s.enc.EQ with
  | nil => exact absurd hc hq
  | cons b q => simp [exec, execEncBuild, h, hc]

/-- ENC.BUILD on an idle encoder (R122). -/
theorem exec_encBuild_idle {r : Request} {s : State} (h : validRequest Config.params r = true)
    (hq : s.enc.EQ = []) :
    exec (.encBuild r) s = .next (s.setEnc
      { ck := frameCk (requestDatagram r), EQ := frame Config.params (requestDatagram r) }) := by
  simp [exec, execEncBuild, h, hq]

/-- ENC.EMIT on an idle encoder (R126). -/
theorem exec_encEmit_empty {s : State} (hq : s.enc.EQ = []) : exec .encEmit s = .next s := by
  simp [exec, execEncEmit, hq]

/-- ENC.EMIT (R125). -/
theorem exec_encEmit_cons {s : State} {b : Byte} {q : List Byte} (hq : s.enc.EQ = b :: q) :
    exec .encEmit s = .next (s.emitByte b q) := by
  simp [exec, execEncEmit, hq]

/-- Only an invalid ENC.BUILD does not answer a next state (60_exceptions.md R300, R309). -/
theorem exec_next_or_invalid (i : Instr) (s : State) :
    (∃ t, exec i s = .next t) ∨
    ∃ r, i = .encBuild r ∧ validRequest Config.params r = false ∧ exec i s = .refused .invalidRequest := by
  cases i with
  | encBuild r =>
    cases hv : validRequest Config.params r
    · exact .inr ⟨r, rfl, hv, exec_encBuild_invalid s hv⟩
    · by_cases hq : s.enc.EQ = []
      · exact .inl ⟨_, exec_encBuild_idle hv hq⟩
      · exact .inl ⟨_, exec_encBuild_busy hv hq⟩
  | encEmit =>
    cases hq : s.enc.EQ with
    | nil => exact .inl ⟨_, exec_encEmit_empty hq⟩
    | cons b q => exact .inl ⟨_, exec_encEmit_cons hq⟩
  | _ => exact .inl ⟨_, rfl⟩

/-- No operation touches what is still to come, and only RESET moves the free values on (log 4). -/
theorem exec_keeps_inputs {i : Instr} {s t : State} (h : exec i s = .next t) :
    t.pending = s.pending ∧ t.freeCtr = if i = .reset then s.freeCtr + 1 else s.freeCtr := by
  cases i with
  | encBuild r =>
    cases hv : validRequest Config.params r
    · rw [exec_encBuild_invalid s hv] at h
      cases h
    · by_cases hq : s.enc.EQ = []
      · rw [exec_encBuild_idle hv hq] at h
        cases h
        exact ⟨rfl, rfl⟩
      · rw [exec_encBuild_busy hv hq] at h
        cases h
        exact ⟨rfl, rfl⟩
  | encEmit =>
    cases hq : s.enc.EQ with
    | nil =>
      rw [exec_encEmit_empty hq] at h
      cases h
      exact ⟨rfl, rfl⟩
    | cons b q =>
      rw [exec_encEmit_cons hq] at h
      cases h
      exact ⟨rfl, rfl⟩
  | _ =>
    cases h
    exact ⟨rfl, rfl⟩

/-! ### Holds -/

/-- An operation is held exactly where R310 says. -/
theorem held_iff (i : Instr) (s : State) :
    held i s = true ↔
      (∃ r, i = .encBuild r ∧ validRequest Config.params r = true ∧ s.enc.EQ ≠ []) ∨ (i = .encEmit ∧ s.enc.EQ = []) := by
  cases i <;> simp [held]

/-- Only the queue decides whether an operation is held. -/
theorem held_congr (i : Instr) {s t : State} (h : s.enc.EQ = t.enc.EQ) : held i s = held i t := by
  cases i <;> simp [held, h]

@[simp] theorem held_decByte (b : Byte) (s : State) : held (.decByte b) s = false := rfl
@[simp] theorem held_decReset (s : State) : held .decReset s = false := rfl
@[simp] theorem held_ckReset (s : State) : held .ckReset s = false := rfl
@[simp] theorem held_ckUpdate (b : Byte) (s : State) : held (.ckUpdate b) s = false := rfl
@[simp] theorem held_ckFinish (s : State) : held .ckFinish s = false := rfl
@[simp] theorem held_encReset (s : State) : held .encReset s = false := rfl
@[simp] theorem held_idle (s : State) : held .idle s = false := rfl
@[simp] theorem held_reset (s : State) : held .reset s = false := rfl

theorem held_encEmit_cons {s : State} {b : Byte} {q : List Byte} (h : s.enc.EQ = b :: q) :
    held .encEmit s = false := by
  simp [held, h]

theorem held_encBuild_idle {r : Request} {s : State} (h : s.enc.EQ = []) : held (.encBuild r) s = false := by
  simp [held, h]

@[simp] theorem takeFirst_nil {α : Type} (f : α → Bool) : takeFirst f [] = none := rfl

theorem takeFirst_free {α : Type} {f : α → Bool} {x : α} (h : f x = false) (xs : List α) :
    takeFirst f (x :: xs) = some (x, xs) := by
  simp [takeFirst, h]

theorem takeFirst_held {α : Type} {f : α → Bool} {x : α} (h : f x = true) (xs : List α) :
    takeFirst f (x :: xs) = (takeFirst f xs).map fun r => (r.1, x :: r.2) := by
  simp [takeFirst, h]

/-- Everything `takeFirst` can answer: nothing, where all are held, or the first that is not, from its place. -/
theorem takeFirst_cases {α : Type} (f : α → Bool) (l : List α) :
    (takeFirst f l = none ∧ ∀ x ∈ l, f x = true) ∨
    ∃ as x bs, takeFirst f l = some (x, as ++ bs) ∧ l = as ++ x :: bs ∧ (∀ a ∈ as, f a = true) ∧ f x = false := by
  induction l with
  | nil => exact .inl ⟨rfl, by simp⟩
  | cons y l ih =>
    cases hy : f y
    · exact .inr ⟨[], y, l, takeFirst_free hy l, rfl, by simp, hy⟩
    · rcases ih with ⟨h, ha⟩ | ⟨as, x, bs, h, hl, ha, hx⟩
      · exact .inl ⟨by rw [takeFirst_held hy, h, Option.map_none], by simpa [hy] using ha⟩
      · exact .inr ⟨y :: as, x, bs, by rw [takeFirst_held hy, h]; rfl, by rw [hl]; rfl, by simpa [hy] using ha, hx⟩

theorem takeFirst_all_held {α : Type} {f : α → Bool} {l : List α} (h : ∀ x ∈ l, f x = true) : takeFirst f l = none := by
  induction l with
  | nil => rfl
  | cons x l ih =>
    rw [takeFirst_held (h x (by simp)), ih fun y hy => h y (by simp [hy]), Option.map_none]

/-- Past any number that are held, the first that is not is taken. -/
theorem takeFirst_append_held {α : Type} {f : α → Bool} {ws : List α} (h : ∀ x ∈ ws, f x = true) {x : α}
    (hx : f x = false) (rest : List α) : takeFirst f (ws ++ x :: rest) = some (x, ws ++ rest) := by
  induction ws with
  | nil => exact takeFirst_free hx rest
  | cons w ws ih =>
    rw [List.cons_append, takeFirst_held (h w (by simp)), ih fun y hy => h y (by simp [hy])]
    rfl

/-! ### Runs -/

@[simp] theorem runOps_nil (s : State) : runOps [] s = .next (s, []) := rfl

@[simp] theorem runInstrs_nil (s : State) : runInstrs [] s = .next s := rfl

/-- An operation that is not held is a run's first step. -/
theorem runOps_cons_next {i : Instr} {s t : State} (hh : held i s = false) (h : exec i s = .next t)
    (is : List Instr) : runOps (i :: is) s = runOps is t := by
  simp [runOps, runSteps, takeFirst_free (f := fun i => held i s) hh, h]

theorem runInstrs_cons_next {i : Instr} {s t : State} (hh : held i s = false) (h : exec i s = .next t)
    (is : List Instr) : runInstrs (i :: is) s = runInstrs is t := by
  rw [runInstrs, runOps_cons_next hh h, ← runInstrs]

/-- A run's step past operations that are held: the first that is not held is performed, and they go on waiting. -/
theorem runOps_held_next {ws : List Instr} {i : Instr} {s t : State} (hw : ∀ w ∈ ws, held w s = true)
    (hh : held i s = false) (h : exec i s = .next t) (is : List Instr) :
    runOps (ws ++ i :: is) s = runOps (ws ++ is) t := by
  have hl : (ws ++ i :: is).length = (ws ++ is).length + 1 := by simp; omega
  simp [runOps, hl, runSteps, takeFirst_append_held (f := fun i => held i s) hw hh, h]

theorem runInstrs_held_next {ws : List Instr} {i : Instr} {s t : State} (hw : ∀ w ∈ ws, held w s = true)
    (hh : held i s = false) (h : exec i s = .next t) (is : List Instr) :
    runInstrs (ws ++ i :: is) s = runInstrs (ws ++ is) t := by
  rw [runInstrs, runOps_held_next hw hh h, ← runInstrs]

/-- With every operation held the run ends, and they wait (R310). -/
theorem runInstrs_all_held {ws : List Instr} {s : State} (hw : ∀ w ∈ ws, held w s = true) :
    runInstrs ws s = .next (s.wait ws) := by
  have h : runOps ws s = .next (s, ws) := by
    rw [runOps]
    cases ws with
    | nil => rfl
    | cons w ws => rw [List.length_cons, runSteps, takeFirst_all_held (f := fun i => held i s) hw]
  rw [runInstrs, h, leaveWaiting]

/-- A run's first step that is refused ends the run. -/
theorem runInstrs_held_refused {ws : List Instr} {i : Instr} {s : State} {r : Refusal} (hw : ∀ w ∈ ws, held w s = true)
    (hh : held i s = false) (h : exec i s = .refused r) (is : List Instr) :
    runInstrs (ws ++ i :: is) s = .refused r := by
  have hl : (ws ++ i :: is).length = (ws ++ is).length + 1 := by simp; omega
  simp [runInstrs, leaveWaiting, runOps, hl, runSteps, takeFirst_append_held (f := fun i => held i s) hw hh, h]

/-- Everything the start of a run can be: its end, with every operation held, or its first step, taken by the oldest
operation that is not held. -/
theorem runOps_cases (ops : List Instr) (s : State) :
    ((∀ w ∈ ops, held w s = true) ∧ runOps ops s = .next (s, ops)) ∨
    ∃ ws i is, ops = ws ++ i :: is ∧ (∀ w ∈ ws, held w s = true) ∧ held i s = false ∧
      ((∃ t, exec i s = .next t ∧ runOps ops s = runOps (ws ++ is) t) ∨
       ∃ r, exec i s = .refused r ∧ runOps ops s = .refused r) := by
  rcases takeFirst_cases (fun i => held i s) ops with ⟨hn, hw⟩ | ⟨ws, i, is, ht, hl, hw, hi⟩
  · refine .inl ⟨hw, ?_⟩
    rw [runOps]
    cases ops with
    | nil => rfl
    | cons w ops => rw [List.length_cons, runSteps, hn]
  · refine .inr ⟨ws, i, is, hl, hw, hi, ?_⟩
    cases he : exec i s with
    | next t => exact .inl ⟨t, rfl, by rw [hl, runOps_held_next hw hi he]⟩
    | fault f => cases f
    | refused r =>
      refine .inr ⟨r, rfl, ?_⟩
      have hlen : ops.length = (ws ++ is).length + 1 := by
        rw [hl]
        simp
        omega
      rw [runOps, hlen, runSteps, ht]
      simp [he]

/-- What a run does: what each of its operations keeps is kept, and those it leaves waiting are among them, in their
order, and held at its end (R310). -/
theorem runOps_keeps {Q : State → Prop} {ops waiting : List Instr} {s t : State}
    (hk : ∀ i ∈ ops, ∀ u v, held i u = false → exec i u = .next v → Q u → Q v) (hq : Q s)
    (h : runOps ops s = .next (t, waiting)) :
    Q t ∧ waiting.Sublist ops ∧ ∀ w ∈ waiting, held w t = true := by
  induction hn : ops.length generalizing ops s with
  | zero =>
    rw [List.length_eq_zero_iff.mp hn] at h
    cases h
    exact ⟨hq, List.nil_sublist _, by simp⟩
  | succ n ih =>
    rcases runOps_cases ops s with ⟨hw, he⟩ | ⟨ws, i, rest, hl, -, hi, ⟨u, hu, hr⟩ | ⟨r, -, hr⟩⟩
    · rw [he] at h
      cases h
      exact ⟨hq, List.Sublist.refl _, hw⟩
    · rw [hr] at h
      obtain ⟨h1, h2, h3⟩ := ih (ops := ws ++ rest)
        (fun j hj => hk j (by rw [hl]; rcases List.mem_append.mp hj with h | h <;> simp [h]))
        (hk i (by simp [hl]) s u hi hu hq) h (by rw [hl] at hn; simp at hn ⊢; omega)
      exact ⟨h1, h2.trans (by rw [hl]; exact (List.Sublist.refl ws).append (List.sublist_cons_self i rest)), h3⟩
    · rw [hr] at h
      cases h

/-- A run that leaves nothing waiting, followed by more operations. -/
theorem runOps_append_next {is js : List Instr} {s t : State} (h : runOps is s = .next (t, [])) :
    runOps (is ++ js) s = runOps js t := by
  induction hn : is.length generalizing is s with
  | zero =>
    rw [List.length_eq_zero_iff.mp hn] at h ⊢
    cases h
    rfl
  | succ n ih =>
    rcases runOps_cases is s with ⟨-, he⟩ | ⟨ws, i, rest, hl, hw, hi, ⟨u, hu, hr⟩ | ⟨r, -, hr⟩⟩
    · rw [he] at h
      cases h
      cases hn
    · rw [hr] at h
      rw [hl, List.append_assoc, List.cons_append, runOps_held_next hw hi hu, ← List.append_assoc]
      exact ih h (by rw [hl] at hn; simp at hn ⊢; omega)
    · rw [hr] at h
      cases h

theorem runInstrs_append_next {is js : List Instr} {s t : State} (h : runOps is s = .next (t, [])) :
    runInstrs (is ++ js) s = runInstrs js t := by
  rw [runInstrs, runOps_append_next h, ← runInstrs]

/-- DEC.FEED on the machine (30_encoding.md R97): the decoder, the Datagrams and the events are those of `decFeed`;
nothing else but the strobe changes, and nothing is left waiting. -/
theorem runOps_decBytes (bs : List Byte) (s : State) :
    ∃ v, runOps (bs.map .decByte) s = .next ({ s with
      dec := (decFeed Config.params bs s.dec).1, dgValid := v
      emitted := s.emitted ++ (decFeed Config.params bs s.dec).2.1
      events := s.events ++ (decFeed Config.params bs s.dec).2.2 }, []) := by
  induction bs generalizing s with
  | nil => exact ⟨s.dgValid, by simp⟩
  | cons b bs ih =>
    obtain ⟨v, hv⟩ := ih (s.applyDec (decByte Config.params b s.dec))
    refine ⟨v, ?_⟩
    rw [List.map_cons, runOps_cons_next (held_decByte b s) (exec_decByte b s), hv]
    simp [decFeed_cons, State.applyDec]

theorem runInstrs_decBytes (bs : List Byte) (s : State) :
    ∃ v, runInstrs (bs.map .decByte) s = .next { s with
      dec := (decFeed Config.params bs s.dec).1, dgValid := v
      emitted := s.emitted ++ (decFeed Config.params bs s.dec).2.1
      events := s.events ++ (decFeed Config.params bs s.dec).2.2 } := by
  obtain ⟨v, hv⟩ := runOps_decBytes bs s
  exact ⟨v, by rw [runInstrs, hv]; rfl⟩

theorem runOps_ckUpdates (bs : List Byte) (s : State) :
    runOps (bs.map .ckUpdate) s = .next (s.setCks (ckFold s.cks bs), []) := by
  induction bs generalizing s with
  | nil => rfl
  | cons b bs ih =>
    rw [List.map_cons, runOps_cons_next (held_ckUpdate b s) (exec_ckUpdate b s), ih]
    rfl

/-- ENC.EMIT once for each byte of the queue: all of it goes out. -/
theorem runOps_encEmits (q : List Byte) (s : State) (h : s.enc.EQ = q) :
    runOps (q.map fun _ => .encEmit) s =
      .next ({ s with enc := { s.enc with EQ := [] }, sent := s.sent ++ q }, []) := by
  induction q generalizing s with
  | nil =>
    have : ({ s.enc with EQ := [] } : Enc) = s.enc := by rw [← h]
    rw [this]
    simp
  | cons b q ih =>
    rw [List.map_cons, runOps_cons_next (held_encEmit_cons h) (exec_encEmit_cons h), ih _ rfl]
    simp [State.emitByte]

/-! ### Steps -/

/-- The oldest activity is taken when it is not held. -/
theorem takeEnabled_cons_free {s : State} {x : Input} {xs : List Input} (h : heldInput x s = false) :
    takeEnabled s (x :: xs) = some (x, xs) := by
  exact takeFirst_free (f := fun x => heldInput x s) h xs

theorem heldInput_code {s : State} {c : Code} {i : Instr} (h : decode c = .ok i) :
    heldInput (.code c) s = held i s := by
  simp [heldInput, h]

theorem heldInput_rejected {s : State} {c : Code} {e : Reject} (h : decode c = .error e) :
    heldInput (.code c) s = false := by
  simp [heldInput, h]

end Sys2Proof.Machine
end

