-- ==== Sys2Proof/Laws/Operands.lean ====
section
/-! SUPPORT. What the operand and port functions say (10_state.md R42, R43; 30_encoding.md R87, R90; 41_encoder.md R120;
20_memory.md R61, R63). -/

namespace Sys2Proof.Machine

/-! ### Joins as numbers -/

theorem toNat_append_byte {n : Nat} (a : BitVec n) (b : Byte) : (a ++ b).toNat = a.toNat * 256 + b.toNat := by
  rw [BitVec.toNat_append, ← Nat.shiftLeft_add_eq_or_of_lt b.isLt, Nat.shiftLeft_eq]

/-- `{h, l}` is the value `h*256 + l` (00_scope.md R15). -/
theorem join16_toNat (h l : Byte) : (join16 h l).toNat = h.toNat * 256 + l.toNat := toNat_append_byte h l

theorem join32_toNat (b3 b2 b1 b0 : Byte) :
    (join32 b3 b2 b1 b0).toNat = ((b3.toNat * 256 + b2.toNat) * 256 + b1.toNat) * 256 + b0.toNat := by
  show ((b3 ++ b2 ++ b1) ++ b0).toNat = _
  rw [toNat_append_byte, toNat_append_byte, toNat_append_byte]

/-! ### Operation words -/

@[simp] theorem opcodeOf_opWord (o b : Byte) : opcodeOf (opWord o b) = o := hiByte_join16 o b

@[simp] theorem imm8Of_opWord (o b : Byte) : imm8Of (opWord o b) = b := loByte_join16 o b

@[simp] theorem opWord_opcodeOf_imm8Of (w : Word16) : opWord (opcodeOf w) (imm8Of w) = w := join16_hiByte_loByte w

/-! ### Well-formed and valid operands -/

theorem Request.wellFormed_iff (r : Request) : r.wellFormed = true ↔ r.data.length = min r.plen.toNat 251 :=
  decide_eq_true_iff

/-- What the request port carries is well-formed (10_state.md R43). -/
theorem ReqPort.request_wellFormed (p : ReqPort) : p.request.wellFormed = true := by
  simp [Request.wellFormed, ReqPort.request, Config.MAX_PAYLOAD]

theorem validRequest_iff (P : Config.Params) (r : Request) :
    validRequest P r = true ↔ definedCmd P r.cmd = true ∧ r.plen.toNat ≤ 251 := by
  rw [validRequest, Bool.and_eq_true, decide_eq_true_iff, Config.MAX_PAYLOAD]

theorem validDatagram_iff (P : Config.Params) (dg : Datagram) :
    validDatagram P dg = true ↔ definedCmd P dg.cmd = true ∧ dg.payload.length ≤ 251 := by
  rw [validDatagram, Bool.and_eq_true, decide_eq_true_iff, Config.MAX_PAYLOAD]

@[simp] theorem requestDatagram_buildRequest (dg : Datagram) : requestDatagram (buildRequest dg) = dg := rfl

theorem validRequest_buildRequest {P : Config.Params} {dg : Datagram} (h : validDatagram P dg = true) :
    validRequest P (buildRequest dg) = true := by
  obtain ⟨hc, hl⟩ := (validDatagram_iff P dg).mp h
  refine (validRequest_iff P _).mpr ⟨hc, ?_⟩
  simp only [buildRequest, BitVec.toNat_ofNat]
  omega

/-- Every defined command is accepted (30_encoding.md R87, R88). -/
theorem accepted_of_definedCmd {P : Config.Params} {c : Byte} (h : definedCmd P c = true) : accepted P c = true := by
  simp [definedCmd, Command.all, Command.code] at h
  rcases h with h | h | h | h | h | h | h | h | h <;> simp [accepted, ← h]

/-! ### The payload buffer and the output signals -/

/-- Writing the byte that comes next extends the bytes received so far (20_memory.md R61). -/
theorem take_setIfInBounds (v : Vector Byte 251) {k : Nat} (b : Byte) (hk : k < 251) :
    (v.setIfInBounds k b).toList.take (k + 1) = v.toList.take k ++ [b] := by
  have h : (v.setIfInBounds k b).toList = v.toList.set k b := by simp [Vector.toList]
  rw [h, List.take_add_one]
  simp [List.take_set, hk]
  rw [List.set_eq_of_length_le (by simp)]

/-- The `dg_*` signals show the working registers (10_state.md R42). -/
theorem dgOut_eq_datagram (s : State) : dgOut s = s.dec.datagram := by
  simp only [dgOut, Dec.datagram, dgCmd, dgId, dgPlen]
  congr 2
  apply List.ext_getElem <;> simp [dgData]

end Sys2Proof.Machine
end

