-- ==== Sys2Proof/Laws/PerInstr.lean ====
section
/-! SUPPORT. Statements made of every instruction, one lemma per constructor. -/

/-- The encoding of an instruction is a word of the opcode-table row with its mnemonic (30_encoding.md R87, R88, R91); an
accessor has no word and its encoding is the call of it (43_payload_accessors.md). -/
def Sys2Proof.Laws.EncodesInTable.Statement (i : Sys2Proof.Instr) : Prop :=
  match Sys2Proof.encode i with
  | .op w _ => ∃ r ∈ Sys2Proof.op16Rows, r.mnemonic = i.mnemonic ∧ r.holds w.toNat = true
  | .wire b => ∃ r ∈ Sys2Proof.cmd8Rows, r.mnemonic = i.mnemonic ∧ r.holds b.toNat = true
  | .call f dg => i = f.instr dg

namespace Sys2Proof.Laws.EncodesInTable

theorem idle : Statement .idle := ⟨⟨"IDLE", 0x0000, 0xFFFF⟩, by decide, rfl, by decide⟩
theorem reset : Statement .reset := ⟨⟨"RESET", 0x0100, 0xFFFF⟩, by decide, rfl, by decide⟩
theorem ckReset : Statement .ckReset := ⟨⟨"CK.RESET", 0x1000, 0xFFFF⟩, by decide, rfl, by decide⟩
theorem ckUpdate (b : Byte) : Statement (.ckUpdate b) :=
  ⟨⟨"CK.UPDATE", 0x1100, 0xFF00⟩, by decide, rfl,
    (by decide +kernel : ∀ b : Byte, TableRow.holds ⟨"CK.UPDATE", 0x1100, 0xFF00⟩ (opWord 0x11 b).toNat = true) b⟩
theorem ckFinish : Statement .ckFinish := ⟨⟨"CK.FINISH", 0x1200, 0xFFFF⟩, by decide, rfl, by decide⟩
theorem encReset : Statement .encReset := ⟨⟨"ENC.RESET", 0x2000, 0xFFFF⟩, by decide, rfl, by decide⟩
theorem encBuild (r : Request) : Statement (.encBuild r) :=
  ⟨⟨"ENC.BUILD", 0x2100, 0xFFFF⟩, by decide, rfl, by decide⟩
theorem encEmit : Statement .encEmit := ⟨⟨"ENC.EMIT", 0x2200, 0xFFFF⟩, by decide, rfl, by decide⟩
theorem decReset : Statement .decReset := ⟨⟨"DEC.RESET", 0x3000, 0xFFFF⟩, by decide, rfl, by decide⟩
theorem decByte (b : Byte) : Statement (.decByte b) :=
  ⟨⟨"DEC.BYTE", 0x3100, 0xFF00⟩, by decide, rfl,
    (by decide +kernel : ∀ b : Byte, TableRow.holds ⟨"DEC.BYTE", 0x3100, 0xFF00⟩ (opWord 0x31 b).toNat = true) b⟩
theorem cmdRead : Statement .cmdRead := ⟨⟨"CMD.Read", 0x01, 0xFF⟩, by decide, rfl, by decide⟩
theorem cmdWrite : Statement .cmdWrite := ⟨⟨"CMD.Write", 0x02, 0xFF⟩, by decide, rfl, by decide⟩
theorem cmdLongWrite : Statement .cmdLongWrite := ⟨⟨"CMD.LongWrite", 0x03, 0xFF⟩, by decide, rfl, by decide⟩
theorem cmdReserved1 : Statement .cmdReserved1 := ⟨⟨"CMD.Reserved1", 0x04, 0xFF⟩, by decide, rfl, by decide⟩
theorem cmdResponse : Statement .cmdResponse := ⟨⟨"CMD.Response", 0x05, 0xFF⟩, by decide, rfl, by decide⟩
theorem cmdLongResponse : Statement .cmdLongResponse := ⟨⟨"CMD.LongResponse", 0x06, 0xFF⟩, by decide, rfl, by decide⟩
theorem cmdReserved2 : Statement .cmdReserved2 := ⟨⟨"CMD.Reserved2", 0x07, 0xFF⟩, by decide, rfl, by decide⟩
theorem cmdReadPeriodically : Statement .cmdReadPeriodically :=
  ⟨⟨"CMD.ReadPeriodically", 0x08, 0xFF⟩, by decide, rfl, by decide⟩
theorem cmdExtension : Statement .cmdExtension := ⟨⟨"CMD.Extension", 0x3C, 0xFF⟩, by decide, rfl, by decide⟩
theorem cmdZero : Statement .cmdZero := ⟨⟨"CMD.Zero", 0x00, 0xFF⟩, by decide, rfl, by decide⟩
theorem asU8 (dg : Datagram) : Statement (.asU8 dg) := rfl
theorem asU16 (dg : Datagram) : Statement (.asU16 dg) := rfl
theorem asI32 (dg : Datagram) : Statement (.asI32 dg) := rfl
theorem asF32 (dg : Datagram) : Statement (.asF32 dg) := rfl

end Sys2Proof.Laws.EncodesInTable
end

