-- ==== Sys2Proof/Tests/Slice0.lean ====
section
/-! SUPPORT. Tests: the checks of WellFormed refuse ill-formed terms, written-out words decode, single steps with results
from 95_test_vectors.md or worked by hand from the rules, and for each obligation with hypotheses a named case that
meets them. -/

namespace Sys2Proof.Tests

open Sys2Proof.Machine

set_option Elab.async false

/-! ## Helpers -/

/-- The next state, if there is one. -/
def nextOf (o : Host.Outcome State Fault Refusal) : Option State :=
  match o with
  | .next t => some t
  | .fault _ => none
  | .refused _ => none

/-- The refusal, if there is one. -/
def refusalGiven (o : Host.Outcome State Fault Refusal) : Option Refusal :=
  match o with
  | .next _ => none
  | .fault _ => none
  | .refused r => some r

/-- What a decoded form is, if it is an instruction. -/
def decoded (c : Code) : Option Instr := (decode c).toOption

/-- The reset state with a decoder. -/
def withDec (d : Dec) : State := { State.reset with dec := d }

/-- The reset state with the decoder in a state of its own, escape flag given. -/
def inState (st : DState) (esc : Bool) : State := withDec { State.reset.dec with dstate := st, esc := esc }

/-- The reset state with an encoder queue. -/
def withQueue (q : List Byte) : State := { State.reset with enc := { State.reset.enc with EQ := q } }

/-- The reset state with CKS. -/
def withCks (crc : Word16) (par : Bool) : State := { State.reset with cks := ⟨crc, par⟩ }

/-- The reset state with port activity to come. -/
def withPending (l : List Input) : State := { State.reset with pending := l }

/-- The Datagram of V1. -/
def dg1 : Datagram := ⟨0x01, 0x400F015B, []⟩

/-- The wire bytes of V1. -/
def doc1 : List Byte := [0x2B, 0x01, 0x04, 0x40, 0x0F, 0x01, 0x5B, 0x58, 0xB4]

/-- The largest payload: V30's Datagram. -/
def dg30 : Datagram := ⟨0x02, 0xCAFEBABE, List.replicate 251 0xAA⟩

/-- The decoder after all but the last byte of V1, from 95_test_vectors.md P2. -/
def beforeB4 : Dec :=
  { State.reset.dec with
    dstate := .awaitingCrc1, cmd := 0x01, len := 0x04, id := 0x400F015B, rxcrcHi := 0x58, ck := ⟨0x58B4, false⟩ }

/-! ## WellFormed: an ill-formed term for each check -/

theorem wf_encBuild_too_few_bytes : (Instr.encBuild ⟨0x01, 0, 2, [0x00]⟩).wellFormed = false := by decide
theorem wf_encBuild_too_many_bytes : (Instr.encBuild ⟨0x01, 0, 252, List.replicate 252 0⟩).wellFormed = false := by
  decide +kernel
theorem wf_full_port : (Instr.encBuild ⟨0x01, 0, 255, List.replicate 251 0⟩).wellFormed = true := by decide +kernel

/-! ## Decode: every constructor, from a word written out (95_test_vectors.md V72; 30_encoding.md R87, R91) -/

theorem dec_idle : decoded (.op 0b0000000000000000 .quiet) = some .idle := by decide +kernel
theorem dec_reset : decoded (.op 0b0000000100000000 .quiet) = some .reset := by decide +kernel
theorem dec_ckReset : decoded (.op 0b0001000000000000 .quiet) = some .ckReset := by decide +kernel
theorem dec_ckUpdate : decoded (.op 0b0001000100101101 .quiet) = some (.ckUpdate 0x2D) := by decide +kernel
theorem dec_ckFinish : decoded (.op 0b0001001000000000 .quiet) = some .ckFinish := by decide +kernel
theorem dec_encReset : decoded (.op 0b0010000000000000 .quiet) = some .encReset := by decide +kernel
theorem dec_encBuild :
    decoded (.op 0b0010000100000000 { ReqPort.quiet with cmd := 0x01, id := 0x400F015B }) =
      some (.encBuild ⟨0x01, 0x400F015B, 0, []⟩) := by decide +kernel
theorem dec_encEmit : decoded (.op 0b0010001000000000 .quiet) = some .encEmit := by decide +kernel
theorem dec_decReset : decoded (.op 0b0011000000000000 .quiet) = some .decReset := by decide +kernel
theorem dec_decByte : decoded (.op 0b0011000110110100 .quiet) = some (.decByte 0xB4) := by decide +kernel
theorem dec_cmdRead : decoded (.wire 0b00000001) = some .cmdRead := by decide +kernel
theorem dec_cmdWrite : decoded (.wire 0b00000010) = some .cmdWrite := by decide +kernel
theorem dec_cmdLongWrite : decoded (.wire 0b00000011) = some .cmdLongWrite := by decide +kernel
theorem dec_cmdReserved1 : decoded (.wire 0b00000100) = some .cmdReserved1 := by decide +kernel
theorem dec_cmdResponse : decoded (.wire 0b00000101) = some .cmdResponse := by decide +kernel
theorem dec_cmdLongResponse : decoded (.wire 0b00000110) = some .cmdLongResponse := by decide +kernel
theorem dec_cmdReserved2 : decoded (.wire 0b00000111) = some .cmdReserved2 := by decide +kernel
theorem dec_cmdReadPeriodically : decoded (.wire 0b00001000) = some .cmdReadPeriodically := by decide +kernel
theorem dec_cmdExtension : decoded (.wire 0b00111100) = some .cmdExtension := by decide +kernel
theorem dec_cmdZero : decoded (.wire 0b00000000) = some .cmdZero := by decide +kernel
theorem dec_start_byte : decoded (.wire 0b00101011) = some (.decByte 0x2B) := by decide +kernel
theorem dec_asU8 : decoded (.call .u8 dg1) = some (.asU8 dg1) := by decide +kernel
theorem dec_asU16 : decoded (.call .u16 dg1) = some (.asU16 dg1) := by decide +kernel
theorem dec_asI32 : decoded (.call .i32 dg1) = some (.asI32 dg1) := by decide +kernel
theorem dec_asF32 : decoded (.call .f32 dg1) = some (.asF32 dg1) := by decide +kernel

/-- The reserved words of V73, refused by name. -/
theorem dec_reserved :
    ([0x0200, 0x1001, 0x2201, 0x3200, 0xFF00] : List Word16).all (fun w =>
      refusalGiven (step (withPending [.code (.op w .quiet)])) == some (.reservedOp w)) = true := by decide +kernel

/-- A table row's word runs as the first step after reset. -/
theorem dec_fetch :
    (nextOf (step (State.reset.withFetchWord 16 0x2100))).map (fun t => t.enc.EQ.take 3) =
      some [0x2B, 0x01, 0x04] := by decide +kernel

/-! ## Single steps -/

/-- R220. -/
theorem step_idle :
    (nextOf (step State.reset)).map (fun t => (t.pending, t.enc.EQ, t.dec.dstate, t.cks)) =
      some ([], [], .awaitingStart, ⟨0xFFFF, false⟩) := by decide +kernel

/-- R221 in the middle of everything: V75. -/
theorem step_reset :
    (nextOf (exec .reset { inState .awaitingId0 true with cks := ⟨0x2E3E, false⟩, ckResult := 0x2E3E, enc := ⟨⟨0, true⟩, doc1⟩ })).map
      (fun t => (t.dec.dstate, t.dec.esc, t.enc.EQ, t.cks, t.ckResult)) =
      some (.awaitingStart, false, [], ⟨0xFFFF, false⟩, 0xFFFF) := by decide +kernel

/-- A second RESET in one run takes free values of its own (log 4): its counter has moved on. -/
theorem run_two_resets : (nextOf (runInstrs [.reset, .reset] State.reset)).map (fun t => t.freeCtr) = some 2 := rfl

/-- R104, its example; `ck_result` stays: V76. -/
theorem step_ckReset :
    (nextOf (exec .ckReset { withCks 0x58B4 false with ckResult := 0x2E3E })).map (fun t => (t.cks, t.ckResult)) =
      some (⟨0xFFFF, false⟩, 0x2E3E) := by decide +kernel

/-- V17: ESC folded as data. -/
theorem step_ckUpdate : (nextOf (exec (.ckUpdate 0x2D) State.reset)).map (fun t => t.cks) = some ⟨0x143F, true⟩ := by
  decide +kernel

/-- V21's last update, from an even prefix. -/
theorem step_ckUpdate_even :
    (nextOf (exec (.ckUpdate 0x2B) (withCks 0x58B4 false))).map (fun t => t.cks) = some ⟨0xFAF4, true⟩ := by
  decide +kernel

/-- V21's finish: the pad. -/
theorem step_ckFinish_odd :
    (nextOf (exec .ckFinish (withCks 0xFAF4 true))).map (fun t => (t.cks, t.ckResult, t.finished)) =
      some (⟨0xBA55, false⟩, 0xBA55, [0xBA55]) := by decide +kernel

/-- V18's finish: no pad. -/
theorem step_ckFinish_even :
    (nextOf (exec .ckFinish (withCks 0x58B4 false))).map (fun t => (t.cks, t.ckResult)) =
      some (⟨0x58B4, false⟩, 0x58B4) := by decide +kernel

/-- R127, its example. -/
theorem step_encReset :
    (nextOf (exec .encReset { withQueue [0x58, 0xB4] with enc := ⟨⟨0x58B4, false⟩, [0x58, 0xB4]⟩ })).map (fun t => t.enc) =
      some ⟨⟨0x58B4, false⟩, []⟩ := by decide +kernel

/-- V27: every identifier byte escaped, an odd payload. -/
theorem step_encBuild :
    (nextOf (exec (.encBuild ⟨0x07, 0x2B2D2B2D, 1, [0x01]⟩) State.reset)).map (fun t => t.enc) =
      some ⟨⟨0x8E12, false⟩,
        [0x2B, 0x07, 0x05, 0x2D, 0x2B, 0x2D, 0x2D, 0x2D, 0x2B, 0x2D, 0x2D, 0x01, 0x8E, 0x12]⟩ := by decide +kernel

/-- V31: an escaped CRC byte. -/
theorem step_encBuild_crc :
    (nextOf (exec (.encBuild ⟨0x01, 0x0000003E, 0, []⟩) State.reset)).map (fun t => t.enc.EQ) =
      some [0x2B, 0x01, 0x04, 0x00, 0x00, 0x00, 0x3E, 0x15, 0x2D, 0x2B] := by decide +kernel

/-- R125, its example. -/
theorem step_encEmit :
    (nextOf (exec .encEmit (withQueue doc1))).map (fun t => (t.sent, t.enc.EQ)) =
      some ([0x2B], [0x01, 0x04, 0x40, 0x0F, 0x01, 0x5B, 0x58, 0xB4]) := by decide +kernel

/-- V57: DEC.RESET in AwaitingId1 with an escape pending. -/
theorem step_decReset :
    (nextOf (exec .decReset (inState .awaitingId1 true))).map (fun t => (t.dec.dstate, t.dec.esc, t.events)) =
      some (.awaitingStart, false, []) := by decide +kernel

/-- V3's ninth byte. -/
theorem step_decByte_emits :
    (nextOf (exec (.decByte 0xB4) (withDec beforeB4))).map (fun t => (t.emitted, t.dgValid, t.dec.dstate)) =
      some ([dg1], true, .done) := by decide +kernel

/-- V47's ninth byte: the high checksum byte flipped. -/
theorem step_decByte_mismatch :
    (nextOf (exec (.decByte 0xB4) (withDec { beforeB4 with rxcrcHi := 0xD8 }))).map (fun t => (t.emitted, t.events)) =
      some ([], [.crcMismatch 0xD8B4 0x58B4]) := by decide +kernel

/-- A command byte where a command is awaited (R155); the checksum states are those of P2 and P4. -/
theorem step_cmdRead : (nextOf (exec .cmdRead (inState .awaitingCmd false))).map (fun t => (t.dec.cmd, t.dec.ck)) =
    some (0x01, ⟨0xF1D1, true⟩) := by decide +kernel
theorem step_cmdWrite : (nextOf (exec .cmdWrite (inState .awaitingCmd false))).map (fun t => (t.dec.cmd, t.dec.ck)) =
    some (0x02, ⟨0xC1B2, true⟩) := by decide +kernel
theorem step_cmdResponse :
    (nextOf (exec .cmdResponse (inState .awaitingCmd false))).map (fun t => (t.dec.cmd, t.dec.ck)) =
      some (0x05, ⟨0xB155, true⟩) := by decide +kernel
theorem step_cmdLongWrite : (nextOf (exec .cmdLongWrite (inState .awaitingCmd false))).map (fun t => t.dec.cmd) =
    some 0x03 := by decide +kernel
theorem step_cmdReserved1 : (nextOf (exec .cmdReserved1 (inState .awaitingCmd false))).map (fun t => t.dec.cmd) =
    some 0x04 := by decide +kernel
theorem step_cmdLongResponse : (nextOf (exec .cmdLongResponse (inState .awaitingCmd false))).map (fun t => t.dec.cmd) =
    some 0x06 := by decide +kernel
theorem step_cmdReserved2 : (nextOf (exec .cmdReserved2 (inState .awaitingCmd false))).map (fun t => t.dec.cmd) =
    some 0x07 := by decide +kernel
theorem step_cmdReadPeriodically :
    (nextOf (exec .cmdReadPeriodically (inState .awaitingCmd false))).map (fun t => t.dec.cmd) = some 0x08 := by
  decide +kernel
theorem step_cmdExtension : (nextOf (exec .cmdExtension (inState .awaitingCmd false))).map (fun t => t.dec.cmd) =
    some 0x3C := by decide +kernel
/-- V49: accepted with ACCEPT_CMD_ZERO. -/
theorem step_cmdZero : (nextOf (exec .cmdZero (inState .awaitingCmd false))).map (fun t => t.dec.dstate) =
    some .awaitingLen := by decide +kernel
/-- V50: not accepted without it. -/
theorem step_cmdZero_rejected :
    (decByte { Config.params with acceptCmdZero := false } 0x00 (inState .awaitingCmd false).dec).event =
      some (.badCmd 0x00) := by decide +kernel

/-- V60, V61. -/
theorem acc_u8 : asU8 ⟨0x05, 0, [0xFF]⟩ = .okU8 255 ∧ asU8 dg1 = .wrongLength := by decide +kernel
/-- R200 on more bytes than any Datagram has: the call runs. -/
theorem acc_over_251 :
    (nextOf (step (withPending [.code (.call .u8 ⟨0x05, 0, List.replicate 252 0⟩)]))).map (fun t => t.accessed) =
      some [.wrongLength] := by decide +kernel
/-- V62, V71. -/
theorem acc_u16 : asU16 ⟨0x05, 0, [0x12, 0x34]⟩ = .okU16 4660 ∧ asU16 ⟨0x05, 0, [0x2D, 0x00]⟩ = .okU16 11520 := by
  decide +kernel
/-- V69. -/
theorem acc_u16_long : asU16 ⟨0x05, 0, [0x12, 0x34, 0x56, 0x78]⟩ = .wrongLength := by decide +kernel
/-- V63 to V65. -/
theorem acc_i32 :
    asI32 ⟨0x05, 0, [0xFF, 0xFF, 0xFF, 0xFE]⟩ = .okI32 (-2) ∧
    asI32 ⟨0x05, 0, [0x80, 0x00, 0x00, 0x00]⟩ = .okI32 (-2147483648) ∧
    asI32 ⟨0x05, 0, [0x3F, 0x80, 0x00, 0x00]⟩ = .okI32 1065353216 := by decide +kernel
/-- V70. -/
theorem acc_i32_short : asI32 ⟨0x05, 0, [0x2D, 0x00]⟩ = .wrongLength := by decide +kernel
/-- V67, V68: the pattern, and its reading. −42.0 is −11010048 · 2^(−18). -/
theorem acc_f32 :
    asF32 ⟨0x05, 0, [0xC2, 0x28, 0x00, 0x00]⟩ = .okF32 0xC2280000 ∧
    f32OfBits 0xC2280000 = .finite true 11010048 (-18) ∧
    asF32 ⟨0x05, 0, [0x7F, 0xC0, 0x00, 0x00]⟩ = .okF32 0x7FC00000 ∧ f32OfBits 0x7FC00000 = .nan := by decide +kernel
/-- V68: negative zero, the smallest subnormal, infinity. -/
theorem acc_f32_values :
    f32OfBits 0x80000000 = .finite true 0 (-149) ∧ f32OfBits 0x00000001 = .finite false 1 (-149) ∧
    f32OfBits 0x7F800000 = .infinity false := by decide +kernel

/-- R96, its examples and V72's ENC.BUILD. -/
theorem asm_examples :
    (asmLine "DEC.BYTE 0x2B  ; START".toList).bind AsmLine.word = some 0x312B ∧
    (asmLine "CK.UPDATE 0x01".toList).bind AsmLine.word = some 0x1101 ∧
    (asmLine "ENC.EMIT".toList).bind AsmLine.word = some 0x2200 ∧
    asmLine "ENC.BUILD cmd=0x01 id=0x400F015B data=[]".toList = some (.op (.encBuild ⟨0x01, 0x400F015B, 0, []⟩)) := by
  decide +kernel
/-- P3's first line, and R97's forms. -/
theorem asm_operands :
    asmLine "ENC.BUILD cmd=0x05 id=0x12345678 data=[2D 00]".toList =
      some (.op (.encBuild ⟨0x05, 0x12345678, 2, [0x2D, 0x00]⟩)) ∧
    asmLine "DEC.FEED 2B 01".toList = some (.pseudo (.decFeed [0x2B, 0x01])) ∧
    asmLine "LOOP.ENC_TO_DEC".toList = some (.pseudo .loopEncToDec) ∧ asmLine "DEC.BYTE 2B".toList = none := by
  decide +kernel
/-- R98, its example's form, without the brackets. -/
theorem asm_datagram :
    (datagramText dg1).tail.dropLast = "cmd=0x01, id=0x400F015B, payload=[]".toList := by decide +kernel

/-- V37: a BUILD given while the encoder is busy waits and goes on when the queue is drained. -/
theorem run_held_build :
    (nextOf (runLines
      [.op (.encBuild ⟨0x01, 0x400F015B, 0, []⟩), .op .encEmit, .op .encEmit, .op .encEmit,
       .op (.encBuild ⟨0x01, 0xDB2D69AE, 0, []⟩), .op .encEmit, .op .encEmit, .op .encEmit,
       .pseudo .encDrain] State.reset)).map (fun t => (t.sent, t.enc.EQ, t.pending)) =
      some (doc1, [0x2B, 0x01, 0x04, 0xDB, 0x2D, 0x2D, 0x69, 0xAE, 0x55, 0xAB], []) := by decide +kernel

/-- V37's BUILD with nothing to lift its hold: the run ends and the operation waits on its port. -/
theorem run_still_held :
    (nextOf (runLines [.op (.encBuild ReqPort.readZero.request), .op .idle] (withQueue [0xB4]))).map
      (fun t => (t.enc.EQ, t.pending == [.code (.op 0x2100 .readZero)])) = some ([0xB4], true) := by decide +kernel

/-! ## Witnesses: a case that meets the hypotheses of each obligation that has some -/

/-- A port that shows a whole payload. -/
def fullPort : ReqPort := { ReqPort.quiet with cmd := 0x02, id := 0xCAFEBABE, plen := 251 }

/-- A cycle with every port active. -/
def busyCycle : PortIn :=
  { PortIn.quiet with
    inValid := true, inByte := 0x2B, reqValid := true, req := ReqPort.readZero, outReady := true, ckOp := 2, ckByte := 1 }

/-- Parameters other than the spec's, ESCAPE_CRC true. -/
def otherParams : Config.Params :=
  { extCode := 0x3D, acceptCmdZero := false, escapeCrc := true, shortLen := .treatAsZero }

/-- A decoder inside its first data byte, with the invariant: V22's Datagram so far. -/
def inData : Dec :=
  { State.reset.dec with
    dstate := .awaitingData, cmd := 0x02, len := 0x08, plen := 4, id := 0x400F015B, ck := ⟨0x1D7F, false⟩ }

theorem witness_DecodeOfEncodeIsIdentity :
    (Instr.encBuild ⟨0x01, 0, 255, List.replicate 251 0x2B⟩).wellFormed = true ∧
    (Instr.encBuild ⟨0x01, 0, 0, []⟩).wellFormed = true ∧ (Instr.asF32 dg30).wellFormed = true := by decide +kernel

theorem witness_DecodedIsWellFormedAndKeepsItsWord :
    decode (.op 0x21FF .quiet) = .error (.reservedImm8 0x21FF) ∧ decode (.op 0x31FF .quiet) = .ok (.decByte 0xFF) ∧
    decode (.wire 0x3C) = .ok .cmdExtension ∧ decode (.wire 0x2B) = .ok (.decByte 0x2B) ∧
    decode (.call .i32 dg30) = .ok (.asI32 dg30) :=
  ⟨rfl, rfl, rfl, rfl, rfl⟩

theorem witness_TableRowsDecodeToTheirInstruction :
    (⟨"CK.UPDATE", 0x1100, 0xFF00⟩ : TableRow) ∈ op16Rows ∧
    (⟨"CK.UPDATE", 0x1100, 0xFF00⟩ : TableRow).holds (0x11FF : Word16).toNat = true ∧
    (⟨"CMD.Zero", 0x00, 0xFF⟩ : TableRow) ∈ cmd8Rows ∧
    (⟨"CMD.Zero", 0x00, 0xFF⟩ : TableRow).holds (0x00 : Byte).toNat = true := by decide +kernel

theorem witness_ReservedWordsAreRefused :
    opcodeOf 0x31FF = 0x31 ∧ (opcodeOf 0x0001 = 0x00 ∧ imm8Of 0x0001 ≠ 0x00) ∧ opcodeOf 0x3200 = 0x32 ∧
    (withPending [.code (.op 0x3200 .quiet)]).pending = .code (.op 0x3200 .quiet) :: [] :=
  ⟨by decide, by decide, by decide, rfl⟩

theorem witness_StepRunsTheDecodedInstruction :
    decode (.op 0x2200 .quiet) = .ok .encEmit ∧ held .encEmit (withQueue doc1) = false ∧
    decode (.op 0x2100 fullPort) = .ok (.encBuild fullPort.request) ∧
    held (.encBuild fullPort.request) State.reset = false := 
  ⟨rfl, by decide +kernel,
   (fun _ => rfl : ∀ port, decode (.op 0x2100 port) = .ok (.encBuild port.request)) fullPort, by decide +kernel⟩

theorem witness_HeldOperationWaitsOnItsPort :
    let build : Input := .code (.op 0x2100 .readZero)
    let emit : Input := .code (.op 0x2200 .quiet)
    (∀ x ∈ (withPending [emit, emit]).pending, heldInput x State.reset = true) ∧
    (∀ w ∈ [build, build], heldInput w (withQueue doc1) = true) ∧ heldInput emit (withQueue doc1) = false ∧
    decode (.op 0x2200 .quiet) = .ok .encEmit ∧
    heldInput (.code (.op 0xFF00 .quiet)) (withQueue doc1) = false ∧
    decode (.op 0xFF00 .quiet) = .error (.reservedOpcode 0xFF00) ∧ heldInput (.cycle busyCycle) (withQueue doc1) = false := by
  refine ⟨?_, ?_, by decide +kernel, rfl, by decide +kernel, rfl, rfl⟩ <;> decide +kernel

/-- The clauses of HeldOperationWaitsOnItsPort about runs. -/
theorem witness_HeldOperationWaitsOnItsPort_runs :
    (∀ w ∈ [Instr.encBuild ReqPort.readZero.request], held w (withQueue doc1) = true) ∧
    held .encEmit (withQueue doc1) = false ∧ (∃ t, exec .encEmit (withQueue doc1) = .next t) ∧
    (∀ w ∈ [Instr.encEmit, .encEmit], held w State.reset = true) :=
  ⟨by decide +kernel, by decide +kernel, ⟨_, rfl⟩, by decide +kernel⟩

theorem witness_CyclePerformsWhatItsPortsSelect :
    ({ busyCycle with rst := true } : PortIn).rst = true ∧ busyCycle.rst = false ∧
    (PortIn.quiet.rst = false ∧ selects PortIn.quiet State.reset = []) ∧
    [.ckUpdate 1, .decByte 0x2B, .encBuild ReqPort.readZero.request].Perm (selects busyCycle State.reset) := by
  decide +kernel

theorem witness_IdleChangesNothingAnywhere :
    PortIn.quiet.rst = false ∧ selects PortIn.quiet State.reset = [] ∧
    ({ PortIn.quiet with reqValid := true } : PortIn).rst = false ∧
    selects { PortIn.quiet with reqValid := true } (withQueue doc1) = [] := by decide +kernel

theorem witness_CrcIsLinearAndInjective :
    ([0x01, 0x04] : List Byte).length = ([0x2B, 0x2D] : List Byte).length ∧
    (ckFold (withCks 0x58B4 true).cks [0x2B]).crc = (ckFold (withCks 0x58B4 false).cks [0x2B]).crc := by decide +kernel

theorem witness_CkUpdateRule : (withCks 0xFFFF false).cks = ⟨0xFFFF, false⟩ := rfl

theorem witness_CkFinishRule : (withCks 0xF1D1 true).cks.par = true ∧ (withCks 0x6EBA false).cks.par = false := ⟨rfl, rfl⟩

theorem witness_BuildLoadsTheFrame :
    validRequest Config.params ⟨0x3C, 0xFFFFFFFF, 0, []⟩ = true ∧ validRequest Config.params fullPort.request = true ∧
    State.reset.enc.EQ = [] := by decide +kernel

theorem witness_BuildWaitsWhileBusy :
    validRequest Config.params fullPort.request = true ∧ (withQueue doc1).enc.EQ ≠ [] ∧ State.reset.enc.EQ = [] ∧
    (withQueue [0xB4]).enc.EQ.length = 1 := by decide +kernel

theorem witness_EmitPutsOutTheHead :
    (withQueue [0xB4]).enc.EQ = [0xB4] ∧
    exec .encEmit (withQueue [0xB4]) = .next ((withQueue [0xB4]).emitByte 0xB4 []) := ⟨rfl, rfl⟩

theorem witness_EmitWaitsWhileEmpty :
    validRequest Config.params ReqPort.readZero.request = true ∧ State.reset.enc.EQ = [] ∧
    ∃ t, exec (.encBuild ReqPort.readZero.request) State.reset = .next t := ⟨by decide +kernel, rfl, _, rfl⟩

theorem witness_FrameLength :
    validDatagram Config.params dg1 = true ∧ validDatagram Config.params dg30 = true ∧
    validDatagram otherParams ⟨0x3D, 0, [0x2B]⟩ = true := by decide +kernel

theorem witness_OnlyTheFirstStartIsUnescaped : Config.params.escapeCrc = true ∧ otherParams.escapeCrc = true := ⟨rfl, rfl⟩

theorem witness_UnescapedFrameIsTheLogicalContent : Config.params.escapeCrc = true ∧ otherParams.escapeCrc = true :=
  ⟨rfl, rfl⟩

theorem witness_DrainPutsOutTheQueue :
    validDatagram Config.params dg30 = true ∧ State.reset.enc.EQ = [] ∧
    ∃ t, exec (.encBuild (buildRequest dg30)) State.reset = .next t :=
  ⟨by decide +kernel, rfl, _, exec_encBuild_idle (by decide +kernel) rfl⟩

theorem witness_StartResynchronizes :
    (inState .awaitingStart false).dec.esc = false ∧ (inState .awaitingCrc1 false).dec.esc = false ∧
    (inState .done false).dec.esc = false := ⟨rfl, rfl, rfl⟩

theorem witness_EscapeArms : (inState .awaitingStart false).dec.esc = false ∧ (inState .done false).dec.esc = false :=
  ⟨rfl, rfl⟩

theorem witness_StartAndDoneIgnoreLiterals :
    ((inState .awaitingStart true).dec.dstate = .awaitingStart ∧ isLiteral 0x2B (inState .awaitingStart true).dec.esc = true) ∧
    ((inState .done false).dec.dstate = .done ∧ isLiteral 0x2C (inState .done false).dec.esc = true) := by decide +kernel

theorem witness_AwaitingCmdRule :
    (inState .awaitingCmd false).dec.dstate = .awaitingCmd ∧ isLiteral 0x08 (inState .awaitingCmd false).dec.esc = true ∧
    isLiteral 0x09 (inState .awaitingCmd false).dec.esc = true ∧ isLiteral 0x3C (inState .awaitingCmd false).dec.esc = true ∧
    isLiteral 0x2B (inState .awaitingCmd true).dec.esc = true := by decide +kernel

theorem witness_AwaitingLenRule :
    (inState .awaitingLen false).dec.dstate = .awaitingLen ∧
    (isLiteral 0x03 false = true ∧ (0x03 : Byte).toNat < 4 ∧ Config.params.shortLen = .reject) ∧
    (isLiteral 0x03 false = true ∧ otherParams.shortLen ≠ .reject) ∧
    (isLiteral 0x04 false = true ∧ 4 ≤ (0x04 : Byte).toNat) ∧ (isLiteral 0xFF true = true ∧ 4 ≤ (0xFF : Byte).toNat) := by
  decide +kernel

theorem witness_IdentifierBytesRule :
    isLiteral 0x2D (inState .awaitingId0 true).dec.esc = true ∧ (inState .awaitingId0 true).dec.dstate = .awaitingId0 ∧
    (inState .awaitingId1 true).dec.dstate = .awaitingId1 ∧ (inState .awaitingId2 true).dec.dstate = .awaitingId2 ∧
    (inState .awaitingId3 true).dec.dstate = .awaitingId3 ∧ (inState .awaitingId3 true).dec.plen = 0 := by decide +kernel

theorem witness_AwaitingDataRule :
    (withDec inData).dec.dstate = .awaitingData ∧ isLiteral 0xFF (withDec inData).dec.esc = true ∧
    (withDec inData).dec.idx.toNat ≤ 250 ∧ (withDec { inData with plen := 251, idx := 250 }).dec.idx.toNat ≤ 250 := by
  decide +kernel

theorem inData_inv : inData.Inv Config.params := by
  show accepted Config.params 0x02 = true ∧ _ = ckFold ckReset _ ∧ ((4 : Byte) = _ ∧ (_ → _)) ∧ _
  refine ⟨by decide +kernel, ?_, ⟨by decide +kernel, fun _ => by decide +kernel⟩, by decide +kernel⟩
  decide +kernel

/-- The second clause of AwaitingDataRule: V22's frame before its first data byte, from P4. -/
theorem witness_AwaitingDataRule_invariant : (withDec inData).Inv ∧ (withDec inData).dec.dstate = .awaitingData :=
  ⟨⟨by decide +kernel, inData_inv, by intro dg h; cases h⟩, rfl⟩

theorem witness_ReceivedChecksumRule :
    isLiteral 0xB4 (withDec beforeB4).dec.esc = true ∧ (inState .awaitingCrc0 false).dec.dstate = .awaitingCrc0 ∧
    ((withDec beforeB4).dec.dstate = .awaitingCrc1 ∧ beforeB4.rxcrcHi ++ (0xB4 : Byte) = (ckFinish beforeB4.ck).crc) ∧
    (({ beforeB4 with rxcrcHi := 0xD8 } : Dec).rxcrcHi ++ (0xB4 : Byte) ≠ (ckFinish beforeB4.ck).crc) := by
  decide +kernel

theorem witness_RoundTrip :
    (Config.params.escapeCrc = true ∧ validDatagram Config.params dg30 = true ∧ inData.esc = false) ∧
    (otherParams.escapeCrc = true ∧ validDatagram otherParams ⟨0x3D, 0x2B2D2B2D, [0x2B]⟩ = true ∧
      (inState .done false).dec.esc = false) := by decide +kernel

theorem witness_FeedingAFrameEmitsItsDatagram :
    validDatagram Config.params dg30 = true ∧ (withDec inData).dec.esc = false := by decide +kernel

theorem witness_LoopbackEmitsWhatWasBuilt :
    validDatagram Config.params dg30 = true ∧ (withDec inData).dec.esc = false ∧ (withDec inData).enc.EQ = [] ∧
    ∃ t, exec (.encBuild (buildRequest dg30)) (withDec inData) = .next t :=
  ⟨by decide +kernel, rfl, rfl, _, exec_encBuild_idle (by decide +kernel) rfl⟩

/-- V40's garbage. -/
theorem witness_GarbageBetweenFramesIsIgnored :
    let g1 : List Byte := [0x00, 0x41, 0x2D, 0x13]
    let g2 : List Byte := [0xFF, 0x2B, 0x05]
    let P := Config.params
    let d := State.reset.dec
    P.escapeCrc = true ∧ validDatagram P dg1 = true ∧ validDatagram P ⟨0x01, 0xDB2D69AE, []⟩ = true ∧
    (decFeed P g1 d).2.1 = [] ∧ (decFeed P g1 d).1.esc = false ∧
    (decFeed P g2 (decFeed P (g1 ++ frame P dg1) d).1).2.1 = [] ∧
    (decFeed P g2 (decFeed P (g1 ++ frame P dg1) d).1).1.esc = false := by decide +kernel

theorem witness_StrayEscapeSwallowsTheNextFrame :
    validDatagram Config.params dg1 = true ∧
    ((inState .awaitingStart false).dec.esc = false ∧ (inState .awaitingStart false).dec.dstate = .awaitingStart) ∧
    ((inState .done false).dec.esc = false ∧ (inState .done false).dec.dstate = .done) := by decide +kernel

theorem witness_UnescapedCrcLosesFrames :
    ({ Config.params with escapeCrc := false } : Config.Params).escapeCrc = false ∧
    State.reset.dec.dstate = .awaitingStart ∧ State.reset.dec.esc = false ∧
    validDatagram { Config.params with escapeCrc := false } dg1 = true ∧
    ((frameCk ⟨0x01, 0x0000003E, []⟩).crc = 0x152B ∧ validDatagram Config.params ⟨0x01, 0x0000003E, []⟩ = true) ∧
    ((frameCk ⟨0x01, 0x00000079, []⟩).crc = 0x2D08 ∧ validDatagram Config.params ⟨0x01, 0x00000079, []⟩ = true) ∧
    ((frameCk ⟨0x01, 0x0000004A, []⟩).crc = 0x2B38 ∧ validDatagram Config.params ⟨0x01, 0x0000004A, []⟩ = true) ∧
    ((frameCk ⟨0x01, 0x000000F4, []⟩).crc = 0x6D2D ∧ validDatagram Config.params ⟨0x01, 0x000000F4, []⟩ = true) := by
  decide +kernel

theorem beforeB4_inv : beforeB4.Inv Config.params := by
  show accepted Config.params 0x01 = true ∧ _ = ckFold ckReset _ ∧ ((0 : Byte) = _ ∧ (_ → _)) ∧ _
  refine ⟨by decide +kernel, ?_, ⟨by decide +kernel, fun _ => by decide +kernel⟩, rfl⟩
  decide +kernel

theorem witness_EmittedDatagramsPassedTheirChecksum :
    (withDec beforeB4).Inv ∧ exec (.decByte 0xB4) (withDec beforeB4) =
      .next ((withDec beforeB4).applyDec (decByte Config.params 0xB4 beforeB4)) ∧
    ((withDec beforeB4).applyDec (decByte Config.params 0xB4 beforeB4)).emitted ≠ (withDec beforeB4).emitted :=
  ⟨⟨by decide +kernel, beforeB4_inv, by intro dg h; cases h⟩, rfl, by decide +kernel⟩

theorem witness_StepKeepsTheInvariant : (withDec beforeB4).Inv ∧ ∃ t, step (withDec beforeB4) = .next t :=
  ⟨⟨by decide +kernel, beforeB4_inv, by intro dg h; cases h⟩, _, rfl⟩

theorem reachable_run (n : Nat) : ∀ {s : State} {α : Type} {f : State → α} {x : α}, Reachable s →
    (nextOf (Sys2Proof.core.run n s)).map f = some x → ∃ t, Reachable t ∧ f t = x := by
  induction n with
  | zero =>
    intro s α f x hr h
    exact ⟨s, hr, Option.some.inj h⟩
  | succ n ih =>
    intro s α f x hr h
    simp only [Host.Core.run] at h
    cases hs : Sys2Proof.core.step s with
    | next t =>
      rw [hs] at h
      exact ih (.step s t hr hs) h
    | fault e =>
      rw [hs] at h
      cases h
    | refused e =>
      rw [hs] at h
      cases h

/-- The frame that starts here has one data byte: from reset it reaches every state the clauses name. -/
def oneDataByte : State :=
  withPending ([0x2B, 0x02, 0x05, 0x00, 0x00, 0x00, 0x00, 0x11].map fun b => Input.code (.wire b))

theorem witness_ReachableDecoderInvariants_states :
    (∃ t, Reachable t ∧ t.dec.dstate = .awaitingLen) ∧ (∃ t, Reachable t ∧ t.dec.dstate = .awaitingId0) ∧
    (∃ t, Reachable t ∧ t.dec.dstate = .awaitingId3) ∧ (∃ t, Reachable t ∧ t.dec.dstate = .awaitingData) ∧
    (∃ t, Reachable t ∧ t.dec.dstate = .awaitingCrc0) :=
  ⟨reachable_run 2 (s := oneDataByte) (f := fun t => t.dec.dstate) (.host _ _ .reset) (by decide +kernel),
   reachable_run 3 (s := oneDataByte) (f := fun t => t.dec.dstate) (.host _ _ .reset) (by decide +kernel),
   reachable_run 6 (s := oneDataByte) (f := fun t => t.dec.dstate) (.host _ _ .reset) (by decide +kernel),
   reachable_run 7 (s := oneDataByte) (f := fun t => t.dec.dstate) (.host _ _ .reset) (by decide +kernel),
   reachable_run 8 (s := oneDataByte) (f := fun t => t.dec.dstate) (.host _ _ .reset) (by decide +kernel)⟩

/-- One operation other than RESET that writes `DEC.plen`. -/
theorem witness_ReachableDecoderInvariants_plen :
    Instr.decByte 0xFF ≠ .reset ∧ ∃ t, exec (.decByte 0xFF) (inState .awaitingLen false) = .next t :=
  ⟨by decide, _, rfl⟩

/-- Two decoders in AwaitingCmd that agree on nothing else but `esc`. -/
theorem witness_OnlyLiveRegistersMatter :
    (inState .awaitingCmd false).dec.SameLive { inData with dstate := .awaitingCmd } ∧
    beforeB4.SameLive { beforeB4 with len := 0, idx := 7 } :=
  ⟨⟨rfl, rfl, trivial⟩, ⟨rfl, rfl, rfl, rfl, rfl, rfl, rfl, rfl⟩⟩

theorem witness_UnitsCommute :
    unitOf (.decByte 0x2B) ≠ unitOf .encEmit ∧ unitOf (.decByte 0x2B) ≠ .all ∧ unitOf .encEmit ≠ .all := by decide

theorem witness_DecoderIgnoresTheOtherUnits :
    ∃ t, runInstrs [.encEmit, .decByte 0x2B, .ckFinish, .encBuild ReqPort.readZero.request, .decReset] State.reset =
      .next t := ⟨_, rfl⟩

theorem witness_CommandCodes :
    definedCmd Config.params 0x3C = true ∧ definedCmd Config.params 0x08 = true ∧
    ((inState .awaitingCmd false).dec.dstate = .awaitingCmd ∧ isLiteral 0x09 (inState .awaitingCmd false).dec.esc = true ∧
      accepted Config.params 0x09 = false) ∧ accepted otherParams 0x00 = false := by decide +kernel

theorem witness_CommandBytesStartAFrame : (inState .awaitingCmd true).dec.dstate = .awaitingCmd := rfl

/-- Each accessor's two clauses: a payload of its length, and one a byte too long. -/
theorem witness_AsRules :
    (⟨0x05, 0, [0xFF]⟩ : Datagram).payload = [0xFF] ∧ dg1.payload.length ≠ 1 ∧
    (⟨0x05, 0, [0x12, 0x34]⟩ : Datagram).payload = [0x12, 0x34] ∧ (⟨0x05, 0, [1, 2, 3]⟩ : Datagram).payload.length ≠ 2 ∧
    (⟨0x05, 0, [0x80, 0, 0, 0]⟩ : Datagram).payload = [0x80, 0, 0, 0] ∧
    (⟨0x05, 0, [1, 2, 3, 4, 5]⟩ : Datagram).payload.length ≠ 4 := by decide +kernel

end Sys2Proof.Tests
end

/-! ## Operations, runs and steps: what each can do -/

namespace Sys2Proof.Machine

/-- What an ENC.BUILD that answers has found and done (41_encoder.md R122, R123). -/
theorem exec_encBuild_next {r : Request} {s t : State} (h : exec (.encBuild r) s = .next t) :
    validRequest Config.params r = true ∧
    ((s.enc.EQ ≠ [] ∧ t = s) ∨
     (s.enc.EQ = [] ∧
      t = s.setEnc { ck := frameCk (requestDatagram r), EQ := frame Config.params (requestDatagram r) })) := by
  cases hv : validRequest Config.params r
  · rw [exec_encBuild_invalid s hv] at h
    cases h
  · by_cases hq : s.enc.EQ = []
    · rw [exec_encBuild_idle hv hq] at h
      cases h
      exact ⟨rfl, .inr ⟨hq, rfl⟩⟩
    · rw [exec_encBuild_busy hv hq] at h
      cases h
      exact ⟨rfl, .inl ⟨hq, rfl⟩⟩

/-- What an ENC.EMIT has found and done (R125, R126). -/
theorem exec_encEmit_next {s t : State} (h : exec .encEmit s = .next t) :
    (s.enc.EQ = [] ∧ t = s) ∨ ∃ b q, s.enc.EQ = b :: q ∧ t = s.emitByte b q := by
  cases hq : s.enc.EQ with
  | nil =>
    rw [exec_encEmit_empty hq] at h
    cases h
    exact .inl ⟨rfl, rfl⟩
  | cons b q =>
    rw [exec_encEmit_cons hq] at h
    cases h
    exact .inr ⟨b, q, rfl, rfl⟩

/-- The decoder's operations are DEC.RESET and DEC.BYTE, a command row being DEC.BYTE of its code (log 5). -/
theorem exec_of_unitOf_dec {i : Instr} (h : unitOf i = .dec) :
    i = .decReset ∨ ∃ b, ∀ s, exec i s = .next (s.applyDec (decByte Config.params b s.dec)) := by
  cases i with
  | decReset => exact .inl rfl
  | decByte b => exact .inr ⟨b, fun _ => rfl⟩
  | cmdRead | cmdWrite | cmdLongWrite | cmdReserved1 | cmdResponse | cmdLongResponse | cmdReserved2
  | cmdReadPeriodically | cmdExtension | cmdZero => exact .inr ⟨_, fun _ => rfl⟩
  | _ => cases h

/-! ### Runs -/

/-- A run whose first operation is refused is refused. -/
theorem runInstrs_cons_refused {i : Instr} {s : State} {r : Refusal} (hi : held i s = false) (h : exec i s = .refused r)
    (is : List Instr) : runInstrs (i :: is) s = .refused r :=
  runInstrs_held_refused (ws := []) (by simp) hi h is

/-- A run of one operation that is not held is that operation. -/
theorem runInstrs_singleton {i : Instr} {s : State} (h : held i s = false) : runInstrs [i] s = exec i s := by
  cases he : exec i s with
  | next t => rw [runInstrs_cons_next h he, runInstrs_nil]
  | fault f => cases f
  | refused r => exact runInstrs_cons_refused h he []

/-- A run keeps what its operations keep, where waiting on the ports makes no difference to it. -/
theorem runInstrs_keeps {Q : State → Prop} {ops : List Instr} {s t : State}
    (hk : ∀ i ∈ ops, ∀ u v, held i u = false → exec i u = .next v → Q u → Q v)
    (hwait : ∀ u ws, Q u → Q (u.wait ws)) (hq : Q s) (h : runInstrs ops s = .next t) : Q t := by
  rw [runInstrs] at h
  cases hr : runOps ops s with
  | next r =>
    obtain ⟨u, waiting⟩ := r
    obtain ⟨hu, -⟩ := runOps_keeps hk hq hr
    rw [hr] at h
    cases h
    exact hwait u waiting hu
  | fault f => cases f
  | refused r =>
    rw [hr] at h
    cases h

/-! ### What the decoder of operations gives is well-formed -/

theorem fixedRow_wellFormed {w : Word16} {i j : Instr} (hj : j.wellFormed = true) (h : fixedRow w j = .ok i) :
    i.wellFormed = true := by
  rw [fixedRow] at h
  split at h <;> cases h
  exact hj

theorem decodeOp_wellFormed {w : Word16} {port : ReqPort} {i : Instr} (h : decodeOp w port = .ok i) :
    i.wellFormed = true := by
  unfold decodeOp at h
  split at h
  -- CK.UPDATE and DEC.BYTE take any operand; ENC.BUILD takes what the request port shows; no opcode else.
  case h_4 | h_10 =>
    cases h
    rfl
  case h_7 => exact fixedRow_wellFormed (j := .encBuild port.request) (ReqPort.request_wellFormed port) h
  case h_11 => cases h
  all_goals exact fixedRow_wellFormed rfl h

theorem decodeWire_wellFormed (P : Config.Params) (b : Byte) : (decodeWire P b).wellFormed = true := by
  unfold decodeWire
  split
  · next c _ => cases c <;> rfl
  · split <;> rfl

/-- The decoder gives well-formed instructions only. -/
theorem decode_wellFormed {c : Code} {i : Instr} (h : decode c = .ok i) : i.wellFormed = true := by
  cases c with
  | op w port => exact decodeOp_wellFormed h
  | wire b =>
    cases h
    exact decodeWire_wellFormed _ b
  | call f dg =>
    cases h
    cases f <;> rfl

/-! ### Steps -/

/-- A step that finds a cycle's signals is that cycle (log 1). -/
theorem step_cycle {s : State} {p : PortIn} {rest : List Input} (h : s.pending = .cycle p :: rest) :
    step s = runCycle p (s.beginStep rest) := by
  simp only [step, h, takeEnabled_cons_free (x := .cycle p) (s := s) rfl]

/-- Everything a step that answers can be: one well-formed operation, IDLE among them, or one cycle, after the step has
taken up its activity. -/
theorem step_next {s t : State} (h : step s = .next t) :
    ∃ rest, (∃ i : Instr, i.wellFormed = true ∧ exec i (s.beginStep rest) = .next t) ∨
      ∃ p, runCycle p (s.beginStep rest) = .next t := by
  unfold step at h
  split at h
  · exact ⟨_, .inl ⟨.idle, rfl, h⟩⟩
  · next c rest _ =>
    split at h
    · next i hi => exact ⟨rest, .inl ⟨i, decode_wellFormed hi, h⟩⟩
    · cases h
  · next p rest _ => exact ⟨rest, .inr ⟨p, h⟩⟩

end Sys2Proof.Machine

/-! ## Units

An operation reads and writes its own unit's registers only (10_state.md R20). `State.withUnit` names a unit's part of
the state; `exec_eq_withUnit` (nothing else is written) and `exec_withUnit` (nothing else is read) say it once for all
operations. -/

namespace Sys2Proof.Machine

/-- `s` with the registers and output sequences of the unit `u` taken from `a`. -/
def State.withUnit (s : State) (u : UnitName) (a : State) : State :=
  { s with
    cks := if u = .cks then a.cks else s.cks
    ckResult := if u = .cks then a.ckResult else s.ckResult
    finished := if u = .cks then a.finished else s.finished
    enc := if u = .enc then a.enc else s.enc
    sent := if u = .enc then a.sent else s.sent
    dec := if u = .dec then a.dec else s.dec
    dgValid := if u = .dec then a.dgValid else s.dgValid
    emitted := if u = .dec then a.emitted else s.emitted
    events := if u = .dec then a.events else s.events
    accessed := if u = .host then a.accessed else s.accessed }

theorem State.withUnit_enc_of_ne {u : UnitName} (h : u ≠ .enc) (s a : State) : (s.withUnit u a).enc = s.enc := if_neg h

/-- Two units have no register in common. -/
theorem State.withUnit_comm {u v : UnitName} (h : u ≠ v) (s a b : State) :
    (s.withUnit u a).withUnit v b = (s.withUnit v b).withUnit u a := by
  simp only [withUnit, State.mk.injEq]
  grind

/-- An operation changes its own unit only (10_state.md R20). -/
theorem exec_eq_withUnit {i : Instr} {s t : State} (hi : unitOf i ≠ .all) (h : exec i s = .next t) :
    t = s.withUnit (unitOf i) t := by
  cases i with
  | reset => exact absurd rfl hi
  | encBuild r =>
    obtain ⟨-, ⟨-, rfl⟩ | ⟨-, rfl⟩⟩ := exec_encBuild_next h <;> rfl
  | encEmit =>
    obtain ⟨-, rfl⟩ | ⟨b, q, -, rfl⟩ := exec_encEmit_next h <;> rfl
  | _ =>
    cases h
    rfl

/-- An operation reads its own unit only: whatever another unit holds, it does the same (10_state.md R20). -/
theorem exec_withUnit {i : Instr} {s t : State} {v : UnitName} (hi : unitOf i ≠ .all) (hv : v ≠ unitOf i) (a : State)
    (h : exec i s = .next t) : exec i (s.withUnit v a) = .next (t.withUnit v a) := by
  have hq : unitOf i = .enc → (s.withUnit v a).enc = s.enc :=
    fun hu => State.withUnit_enc_of_ne (by rwa [hu] at hv) s a
  cases i with
  | reset => exact absurd rfl hi
  | encBuild r =>
    obtain ⟨hr, ⟨hs, rfl⟩ | ⟨hs, rfl⟩⟩ := exec_encBuild_next h
    · rw [exec_encBuild_busy hr (by rwa [hq rfl])]
    · rw [exec_encBuild_idle hr (by rwa [hq rfl])]
      simp only [unitOf] at hv
      simp only [State.withUnit, if_neg hv]
      rfl
  | encEmit =>
    obtain ⟨hs, rfl⟩ | ⟨b, q, hs, rfl⟩ := exec_encEmit_next h
    · rw [exec_encEmit_empty (by rwa [hq rfl])]
    · rw [exec_encEmit_cons (by rwa [hq rfl])]
      simp only [unitOf] at hv
      simp only [State.withUnit, if_neg hv]
      rfl
  | _ =>
    cases h
    simp only [unitOf] at hv
    simp only [State.withUnit, if_neg hv]
    rfl

/-- Only the encoder's operations wait (60_exceptions.md R310). -/
theorem held_of_unitOf_ne {i : Instr} (h : unitOf i ≠ .enc) (s : State) : held i s = false := by
  cases i with
  | encBuild r => exact absurd rfl h
  | encEmit => exact absurd rfl h
  | _ => rfl

/-- An operation lifts no hold of another unit's, and puts none on. -/
theorem held_of_exec {i j : Instr} {s t : State} (hi : unitOf i ≠ .all) (hij : unitOf i ≠ unitOf j)
    (h : exec i s = .next t) : held j t = held j s := by
  by_cases hj : unitOf j = .enc
  · have henc : t.enc = s.enc := by
      rw [exec_eq_withUnit hi h, State.withUnit_enc_of_ne (by rwa [hj] at hij)]
    exact held_congr j (by rw [henc])
  · rw [held_of_unitOf_ne hj, held_of_unitOf_ne hj]

/-- Operations of different units reach one state in either order (10_state.md R46). -/
theorem exec_comm {i j : Instr} {s t u : State} (hi : unitOf i ≠ .all) (hj : unitOf j ≠ .all)
    (hij : unitOf i ≠ unitOf j) (ht : exec i s = .next t) (hu : exec j s = .next u) :
    ∃ v, exec j t = .next v ∧ exec i u = .next v := by
  have ht' := exec_eq_withUnit hi ht
  have hu' := exec_eq_withUnit hj hu
  have hji : exec j t = .next (u.withUnit (unitOf i) t) := by
    have := exec_withUnit hj hij t hu
    rwa [← ht'] at this
  have hij' : exec i u = .next (t.withUnit (unitOf j) u) := by
    have := exec_withUnit hi hij.symm u ht
    rwa [← hu'] at this
  have hsame := State.withUnit_comm hij s t u
  rw [← ht', ← hu'] at hsame
  exact ⟨_, hji, by rw [hij', hsame]⟩

/-! ### Runs of operations of different units -/

/-- An invalid ENC.BUILD beside an operation of another unit: the run is refused in either order. -/
theorem runInstrs_invalid_swap {r : Request} {j : Instr} (hr : validRequest Config.params r = false)
    (hj : unitOf j ≠ .enc) (l : List Instr) (s : State) :
    runInstrs (.encBuild r :: j :: l) s = .refused .invalidRequest ∧
    runInstrs (j :: .encBuild r :: l) s = .refused .invalidRequest := by
  have hfree : ∀ u, held (.encBuild r) u = false := fun u => by simp [held, hr]
  refine ⟨runInstrs_cons_refused (hfree s) (exec_encBuild_invalid s hr) _, ?_⟩
  rcases exec_next_or_invalid j s with ⟨u, hu⟩ | ⟨q, rfl, -, -⟩
  · rw [runInstrs_cons_next (held_of_unitOf_ne hj s) hu]
    exact runInstrs_cons_refused (hfree u) (exec_encBuild_invalid u hr) l
  · exact absurd rfl hj

/-- The first two operations of a run, of different units and not held, may be given in either order (R46). -/
theorem runInstrs_swap {i j : Instr} {s : State} (hi : unitOf i ≠ .all) (hj : unitOf j ≠ .all)
    (hij : unitOf i ≠ unitOf j) (hfi : held i s = false) (hfj : held j s = false) (l : List Instr) :
    runInstrs (i :: j :: l) s = runInstrs (j :: i :: l) s := by
  rcases exec_next_or_invalid i s with ⟨t, ht⟩ | ⟨r, rfl, hr, -⟩
  · rcases exec_next_or_invalid j s with ⟨u, hu⟩ | ⟨r, rfl, hr, -⟩
    · obtain ⟨v, hjt, hiu⟩ := exec_comm hi hj hij ht hu
      have hft : held j t = false := (held_of_exec hi hij ht).trans hfj
      have hfu : held i u = false := (held_of_exec hj hij.symm hu).trans hfi
      rw [runInstrs_cons_next hfi ht, runInstrs_cons_next hft hjt, runInstrs_cons_next hfj hu,
        runInstrs_cons_next hfu hiu]
    · obtain ⟨h1, h2⟩ := runInstrs_invalid_swap hr hij l s
      rw [h1, h2]
  · obtain ⟨h1, h2⟩ := runInstrs_invalid_swap hr hij.symm l s
    rw [h1, h2]

/-- A held operation and one of another unit: the other is performed first, in whichever order they are given (R310). -/
theorem runInstrs_held_swap {i j : Instr} {s : State} (hij : unitOf i ≠ unitOf j) (hi : held i s = true) :
    runInstrs [i, j] s = runInstrs [j, i] s := by
  have henc : unitOf i = .enc := by
    by_contra h
    rw [held_of_unitOf_ne h] at hi
    cases hi
  have hj : unitOf j ≠ .enc := by rw [← henc]; exact hij.symm
  have hfj : held j s = false := held_of_unitOf_ne hj s
  rcases exec_next_or_invalid j s with ⟨u, hu⟩ | ⟨r, rfl, -, -⟩
  · rw [runInstrs_cons_next hfj hu]
    exact runInstrs_held_next (ws := [i]) (by simpa using hi) hfj hu []
  · exact absurd rfl hj

/-- Settles O52. A held operation of the two goes second in both orders; two that are not held commute. -/
theorem unitsCommute : Obligations.UnitsCommute := by
  intro i j s hij hi hj
  cases hfi : held i s
  · cases hfj : held j s
    · exact runInstrs_swap hi hj hij hfi hfj []
    · exact (runInstrs_held_swap hij.symm hfj).symm
  · exact runInstrs_held_swap hij hfi

/-- Operations none of which is held, of pairwise different units, may be given in any order (R46). -/
theorem runInstrs_perm {ops ops' : List Instr} (hp : ops.Perm ops') :
    ∀ s, (ops.map unitOf).Nodup → (∀ i ∈ ops, unitOf i ≠ .all) → (∀ i ∈ ops, held i s = false) →
      runInstrs ops s = runInstrs ops' s := by
  induction hp with
  | nil => exact fun _ _ _ _ => rfl
  | cons i hp ih =>
    intro s hu ha hf
    obtain ⟨hne, hu⟩ := List.nodup_cons.mp hu
    obtain ⟨hi, ha⟩ := List.forall_mem_cons.mp ha
    obtain ⟨hfi, hf⟩ := List.forall_mem_cons.mp hf
    cases he : exec i s with
    | next t =>
      have hft : ∀ j ∈ _, held j t = false := fun j hj =>
        (held_of_exec hi (fun h => hne (List.mem_map.mpr ⟨j, hj, h.symm⟩)) he).trans (hf j hj)
      rw [runInstrs_cons_next hfi he, runInstrs_cons_next hfi he, ih t hu ha hft]
    | fault f => cases f
    | refused r => rw [runInstrs_cons_refused hfi he, runInstrs_cons_refused hfi he]
  | swap i j l =>
    intro s hu ha hf
    simp only [List.map_cons, List.nodup_cons, List.mem_cons, not_or] at hu
    simp only [List.forall_mem_cons] at ha hf
    obtain ⟨⟨hji, -⟩, -⟩ := hu
    obtain ⟨hj, hi, -⟩ := ha
    obtain ⟨hfj, hfi, -⟩ := hf
    exact runInstrs_swap hj hi hji hfj hfi l
  | trans hp _ ih ih' =>
    intro s hu ha hf
    rw [ih s hu ha hf]
    exact ih' s ((hp.map unitOf).nodup_iff.mp hu) (fun i hi => ha i (hp.mem_iff.mpr hi))
      fun i hi => hf i (hp.mem_iff.mpr hi)

end Sys2Proof.Machine

/-! ## What a cycle selects -/

namespace Sys2Proof.Machine

theorem decOps_cases (p : PortIn) : p.decOps = [] ∨ p.decOps = [.decByte p.inByte] := by
  rw [PortIn.decOps]
  cases p.inValid <;> simp

/-- The encoder's operation of a cycle is the one its handshakes allow in the state it finds (10_state.md R43, R44). -/
theorem encOps_cases (p : PortIn) (s : State) :
    p.encOps s = [] ∨ (p.encOps s = [.encBuild p.req.request] ∧ s.enc.EQ = []) ∨
      (p.encOps s = [.encEmit] ∧ s.enc.EQ ≠ []) := by
  cases hq : s.enc.EQ <;> simp [PortIn.encOps, reqReady, outValid, hq]

theorem ckOps_cases (p : PortIn) :
    p.ckOps = [] ∨ p.ckOps = [.ckReset] ∨ p.ckOps = [.ckUpdate p.ckByte] ∨ p.ckOps = [.ckFinish] := by
  unfold PortIn.ckOps
  split <;> simp

/-- What the ports select is the decoder's, the encoder's and the checksum's operation, as the model lists them. -/
theorem selects_eq_append (p : PortIn) (s : State) : selects p s = p.decOps ++ p.encOps s ++ p.ckOps := by
  have henc : p.encOps s = (if p.reqValid = true ∧ s.enc.EQ = [] then [.encBuild p.req.request] else []) ++
      (if p.outReady = true ∧ s.enc.EQ ≠ [] then [.encEmit] else []) := by
    cases hq : s.enc.EQ <;> simp [PortIn.encOps, reqReady, outValid, hq]
  have hck : p.ckOps = if p.ckOp = 1 then [.ckReset] else if p.ckOp = 2 then [.ckUpdate p.ckByte]
      else if p.ckOp = 3 then [.ckFinish] else [] := by
    unfold PortIn.ckOps
    split <;> rename_i h <;> rw [h] <;> rfl
  rw [henc, hck, ← List.append_assoc]
  rfl

theorem ops_of_rst {p : PortIn} (h : p.rst = true) (s : State) : p.ops s = [.reset] := if_pos h

/-- With `rst = 0` a cycle is the operations its ports select, or IDLE when they select none (R220). -/
theorem ops_of_not_rst {p : PortIn} (h : p.rst = false) (s : State) :
    p.ops s = if selects p s = [] then [.idle] else selects p s := by
  rw [PortIn.ops, h, selects_eq_append]
  cases p.decOps ++ p.encOps s ++ p.ckOps <;> rfl

/-- A cycle selects at most one operation of each unit. -/
theorem selects_units (p : PortIn) (s : State) : ((selects p s).map unitOf).Sublist [.dec, .enc, .cks] := by
  have hdec : (p.decOps.map unitOf).Sublist [.dec] := by
    rcases decOps_cases p with h | h <;> simp [h, unitOf]
  have henc : ((p.encOps s).map unitOf).Sublist [.enc] := by
    rcases encOps_cases p s with h | ⟨h, -⟩ | ⟨h, -⟩ <;> simp [h, unitOf]
  have hck : (p.ckOps.map unitOf).Sublist [.cks] := by
    rcases ckOps_cases p with h | h | h | h <;> simp [h, unitOf]
  rw [selects_eq_append, List.map_append, List.map_append]
  exact (hdec.append henc).append hck

/-- No operation that a cycle selects is held in the state it finds (60_exceptions.md R310). -/
theorem selects_not_held {p : PortIn} {s : State} {i : Instr} (hi : i ∈ selects p s) : held i s = false := by
  rw [selects_eq_append, List.mem_append, List.mem_append] at hi
  rcases hi with (hi | hi) | hi
  · rcases decOps_cases p with h | h <;> simp_all
  · rcases encOps_cases p s with h | ⟨h, hq⟩ | ⟨h, hq⟩ <;> simp_all [held]
  · rcases ckOps_cases p with h | h | h | h <;> simp_all

/-- The operations a cycle selects give one result in any order (R46). -/
theorem runInstrs_selects_perm {p : PortIn} {s : State} {ops : List Instr} (h : ops.Perm (selects p s)) :
    runInstrs (selects p s) s = runInstrs ops s := by
  have hsub := selects_units p s
  refine runInstrs_perm h.symm s (hsub.nodup (by decide)) (fun i hi hall => ?_) fun i hi => selects_not_held hi
  have hmem : UnitName.all ∈ [UnitName.dec, .enc, .cks] := hsub.subset (List.mem_map.mpr ⟨i, hi, hall⟩)
  exact absurd hmem (by decide)

/-- A cycle's signals select well-formed operations only. -/
theorem ops_wellFormed {p : PortIn} {s : State} {i : Instr} (hi : i ∈ p.ops s) : i.wellFormed = true := by
  cases hr : p.rst
  · have hsel : ∀ j ∈ selects p s, j.wellFormed = true := by
      intro j hj
      rw [selects_eq_append, List.mem_append, List.mem_append] at hj
      rcases hj with (hj | hj) | hj
      · rcases decOps_cases p with h | h <;> simp_all [Instr.wellFormed]
      · rcases encOps_cases p s with h | ⟨h, -⟩ | ⟨h, -⟩ <;>
          simp_all [Instr.wellFormed, ReqPort.request_wellFormed]
      · rcases ckOps_cases p with h | h | h | h <;> simp_all [Instr.wellFormed]
    rw [ops_of_not_rst hr] at hi
    split at hi
    · rw [List.mem_singleton.mp hi]
      rfl
    · exact hsel i hi
  · rw [ops_of_rst hr, List.mem_singleton] at hi
    rw [hi]
    rfl

/-- Settles O8. The cycle's list is `selects` or IDLE alone; its operations are of different units and none is held. -/
theorem cyclePerformsWhatItsPortsSelect : Obligations.CyclePerformsWhatItsPortsSelect := by
  intro s p rest hp t
  have hstep : step s = runInstrs (p.ops t) t := step_cycle hp
  refine ⟨fun h => ?_, fun h hnone => ?_, fun h ops hperm => ?_⟩
  · rw [hstep, ops_of_rst h, runInstrs_singleton (held_reset t)]
  · have hnone' : selects p t = [] := hnone
    rw [hstep, ops_of_not_rst h, if_pos hnone', runInstrs_singleton (held_idle t)]
  · have hperm' : ops.Perm (selects p t) := hperm
    rw [hstep, ops_of_not_rst h]
    split
    · next hnone =>
      rw [hnone] at hperm'
      rw [hperm'.eq_nil, runInstrs_singleton (held_idle t), exec_idle, runInstrs_nil]
    · exact runInstrs_selects_perm hperm'

end Sys2Proof.Machine

/-! ## The encoder's queue: a frame's size -/

namespace Sys2Proof.Machine

theorem escByte_length_le (b : Byte) : (escByte b).length ≤ 2 := by
  rcases escByte_cases b with ⟨h, -⟩ | ⟨h, -⟩ <;> simp [h]

theorem escCrcByte_length_le (P : Config.Params) (b : Byte) : (escCrcByte P b).length ≤ 2 := by
  rw [escCrcByte]
  split
  · exact escByte_length_le b
  · simp

theorem flatMap_escByte_length_le (bs : List Byte) : (bs.flatMap escByte).length ≤ 2 * bs.length := by
  induction bs with
  | nil => simp
  | cons b bs ih =>
    have := escByte_length_le b
    simp only [List.flatMap_cons, List.length_append, List.length_cons]
    omega

@[simp] theorem logicalBytes_length (dg : Datagram) : (logicalBytes dg).length = dg.payload.length + 6 := by
  simp [logicalBytes, idBytes]

/-- A frame fits the encoder's queue (00_scope.md R14; 10_state.md R22). -/
theorem frame_length_le (P : Config.Params) {dg : Datagram} (h : dg.payload.length ≤ Config.MAX_PAYLOAD) :
    (frame P dg).length ≤ Config.MAX_FRAME := by
  have hbody := flatMap_escByte_length_le (logicalBytes dg)
  have hhi := escCrcByte_length_le P (hiByte (frameCk dg).crc)
  have hlo := escCrcByte_length_le P (loByte (frameCk dg).crc)
  rw [logicalBytes_length] at hbody
  simp only [frame, List.length_cons, List.length_append, Config.MAX_PAYLOAD, Config.MAX_FRAME] at h ⊢
  omega

/-! ## The decoder's invariant

One lemma per handler. The states that receive a logical byte list it among the bytes received and fold it into the
checksum (42_decoder.md R165). -/

variable {P : Config.Params} {d : Dec}

/-- The checksum stays that of the bytes received when one byte joins both. -/
theorem ck_eq_ckFold_received {d' : Dec} {b : Byte} (hck : d.ck = ckFold ckReset d.received)
    (hfold : d'.ck = ckUpdate d.ck b) (hrecv : d'.received = d.received ++ [b]) :
    d'.ck = ckFold ckReset d'.received := by
  rw [hfold, hrecv, ckFold_snoc, hck]

/-- `DEC.esc` is none of the registers the invariant speaks of. -/
theorem Dec.Inv.setEsc (h : d.Inv P) (x : Bool) : ({ d with esc := x } : Dec).Inv P := h

theorem resync_inv (d : Dec) : (resync d).dec.Inv P := trivial

theorem drop_inv (d : Dec) (e : Event) : (drop d e).dec.Inv P := trivial

theorem onCmd_inv (b : Byte) (d : Dec) : (onCmd P b d).dec.Inv P := by
  rw [onCmd]
  split
  · next hacc => exact ⟨hacc, rfl⟩
  · exact drop_inv d _

theorem onLen_inv (b : Byte) (hd : d.dstate = .awaitingLen) (h : d.Inv P) : (onLen P b d).dec.Inv P := by
  simp only [Dec.Inv, hd] at h
  obtain ⟨hacc, hck⟩ := h
  rw [onLen]
  split
  · exact drop_inv _ _
  · next hlen =>
    refine ⟨hacc, ck_eq_ckFold_received (b := b) hck rfl (by simp [Dec.received, hd]), ⟨rfl, fun hrej => ?_⟩, rfl⟩
    by_contra hlt
    exact hlen ⟨Nat.lt_of_not_le hlt, hrej⟩

theorem onId0_inv (b : Byte) (hd : d.dstate = .awaitingId0) (h : d.Inv P) : (onId0 b d).dec.Inv P := by
  simp only [Dec.Inv, hd] at h
  obtain ⟨hacc, hck, hrest⟩ := h
  exact ⟨hacc, ck_eq_ckFold_received (b := b) hck rfl (by simp [onId0, Dec.received, hd, setId3]), hrest⟩

theorem onId1_inv (b : Byte) (hd : d.dstate = .awaitingId1) (h : d.Inv P) : (onId1 b d).dec.Inv P := by
  simp only [Dec.Inv, hd] at h
  obtain ⟨hacc, hck, hrest⟩ := h
  exact ⟨hacc, ck_eq_ckFold_received (b := b) hck rfl (by simp [onId1, Dec.received, hd, setId2]), hrest⟩

theorem onId2_inv (b : Byte) (hd : d.dstate = .awaitingId2) (h : d.Inv P) : (onId2 b d).dec.Inv P := by
  simp only [Dec.Inv, hd] at h
  obtain ⟨hacc, hck, hrest⟩ := h
  exact ⟨hacc, ck_eq_ckFold_received (b := b) hck rfl (by simp [onId2, Dec.received, hd, setId1]), hrest⟩

theorem onId3_inv (b : Byte) (hd : d.dstate = .awaitingId3) (h : d.Inv P) : (onId3 b d).dec.Inv P := by
  simp only [Dec.Inv, hd] at h
  obtain ⟨hacc, hck, hlen, hidx⟩ := h
  have hrecv : d.cmd :: d.len :: (idBytes (setId0 d.id b) ++ d.DBUF.toList.take d.idx.toNat) = d.received ++ [b] := by
    simp [Dec.received, hd, idBytes, setId0, hidx]
  rw [onId3]
  split
  · next h0 => exact ⟨hacc, ck_eq_ckFold_received hck rfl hrecv, hlen, hidx.trans h0.symm⟩
  · next h0 =>
    refine ⟨hacc, ck_eq_ckFold_received hck rfl hrecv, hlen, ?_⟩
    show d.idx.toNat < d.plen.toNat
    rw [hidx]
    bv_omega

theorem onData_inv (b : Byte) (hd : d.dstate = .awaitingData) (h : d.Inv P) : (onData b d).dec.Inv P := by
  simp only [Dec.Inv, hd] at h
  obtain ⟨hacc, hck, hlen, hidx⟩ := h
  have hplen : d.plen.toNat ≤ 251 := by
    obtain ⟨hplen, -⟩ := hlen
    rw [hplen]
    exact plenOf_le d.len
  have hnext : (d.idx + 1).toNat = d.idx.toNat + 1 := by bv_omega
  have hrecv : d.cmd :: d.len :: (idBytes d.id ++
      (d.DBUF.setIfInBounds d.idx.toNat b).toList.take (d.idx + 1).toNat) = d.received ++ [b] := by
    rw [hnext, take_setIfInBounds d.DBUF b (by omega)]
    simp [Dec.received, hd]
  rw [onData]
  split
  · next hlast => exact ⟨hacc, ck_eq_ckFold_received hck rfl hrecv, hlen, hlast⟩
  · next hmore =>
    refine ⟨hacc, ck_eq_ckFold_received hck rfl hrecv, hlen, ?_⟩
    show (d.idx + 1).toNat < d.plen.toNat
    bv_omega

theorem onCrc0_inv (b : Byte) (hd : d.dstate = .awaitingCrc0) (h : d.Inv P) : (onCrc0 b d).dec.Inv P := by
  simp only [Dec.Inv, hd] at h
  obtain ⟨hacc, hck, hrest⟩ := h
  exact ⟨hacc, by simpa [onCrc0, Dec.received, hd] using hck, hrest⟩

theorem onCrc1_inv (b : Byte) (hd : d.dstate = .awaitingCrc1) (h : d.Inv P) : (onCrc1 b d).dec.Inv P := by
  simp only [Dec.Inv, hd] at h
  obtain ⟨hacc, hck, hrest⟩ := h
  rw [onCrc1]
  split
  · exact ⟨hacc, by simp [hck, Dec.received, hd], hrest⟩
  · exact drop_inv _ _

theorem dispatch_inv (b : Byte) (h : d.Inv P) : (dispatch P b d).dec.Inv P := by
  unfold dispatch
  cases hd : d.dstate with
  | awaitingStart => exact h
  | awaitingCmd => exact onCmd_inv b d
  | awaitingLen => exact onLen_inv b hd h
  | awaitingId0 => exact onId0_inv b hd h
  | awaitingId1 => exact onId1_inv b hd h
  | awaitingId2 => exact onId2_inv b hd h
  | awaitingId3 => exact onId3_inv b hd h
  | awaitingData => exact onData_inv b hd h
  | awaitingCrc0 => exact onCrc0_inv b hd h
  | awaitingCrc1 => exact onCrc1_inv b hd h
  | done => exact h

/-- DEC.BYTE keeps the decoder's invariant, whatever the byte and the parameters (42_decoder.md R165, R172). -/
theorem decByte_inv (b : Byte) (h : d.Inv P) : (decByte P b d).dec.Inv P := by
  rcases decByte_cases P b d with ⟨-, -, hd⟩ | ⟨-, -, hd⟩ | ⟨-, hd⟩ <;> rw [hd]
  · exact resync_inv d
  · exact h.setEsc true
  · exact dispatch_inv b (h.setEsc false)

/-- A handler that emits is AwaitingCrc1's, and what it emits is the Datagram in the working registers (R166). -/
theorem dispatch_emit {b : Byte} {dg : Datagram} (h : (dispatch P b d).emit = some dg) :
    d.dstate = .awaitingCrc1 ∧ dg = d.datagram := by
  unfold dispatch at h
  cases hd : d.dstate <;> rw [hd] at h
  case awaitingCrc1 =>
    simp only [onCrc1] at h
    split at h <;> cases h
    exact ⟨rfl, rfl⟩
  case awaitingCmd =>
    simp only [onCmd] at h
    split at h <;> cases h
  case awaitingLen =>
    simp only [onLen] at h
    split at h <;> cases h
  all_goals cases h

/-- DEC.BYTE emits in AwaitingCrc1 only, and what it emits is the Datagram in the working registers (R166). -/
theorem decByte_emit {b : Byte} {dg : Datagram} (h : (decByte P b d).emit = some dg) :
    d.dstate = .awaitingCrc1 ∧ dg = d.datagram := by
  rcases decByte_cases P b d with ⟨-, -, hd⟩ | ⟨-, -, hd⟩ | ⟨-, hd⟩ <;> rw [hd] at h
  · cases h
  · cases h
  · exact dispatch_emit (d := { d with esc := false }) h

/-- A Datagram that leaves the decoder has an accepted command and a payload that fits (R166; 00_scope.md R9). -/
theorem decByte_emit_good {b : Byte} {dg : Datagram} (hd : d.Inv P) (h : (decByte P b d).emit = some dg) :
    accepted P dg.cmd = true ∧ dg.payload.length ≤ Config.MAX_PAYLOAD := by
  obtain ⟨hst, rfl⟩ := decByte_emit h
  simp only [Dec.Inv, hst] at hd
  obtain ⟨hacc, -⟩ := hd
  exact ⟨hacc, by simp [Dec.datagram, Config.MAX_PAYLOAD]⟩

end Sys2Proof.Machine

/-! ## The machine's invariant -/

namespace Sys2Proof.Machine

/-- Settles O40. -/
theorem resetStateHoldsTheSpecsValues : Obligations.ResetStateHoldsTheSpecsValues :=
  ⟨rfl, rfl, rfl, rfl, rfl, rfl, rfl, rfl, rfl, rfl⟩

/-- Settles O48: the queue is empty, the decoder awaits a START and nothing has been emitted. -/
theorem resetMeetsTheInvariant : Obligations.ResetMeetsTheInvariant where
  queue := Nat.zero_le _
  dec := trivial
  emitted := fun _ h => absurd h List.not_mem_nil

/-- A well-formed request asks for a payload that fits. -/
theorem requestDatagram_length_le {r : Request} (hw : r.wellFormed = true) :
    (requestDatagram r).payload.length ≤ Config.MAX_PAYLOAD := by
  have h := (Request.wellFormed_iff r).mp hw
  simp only [requestDatagram, Config.MAX_PAYLOAD]
  omega

variable {s t : State}

/-- The encoder's operations keep the queue's size: they empty it, take its head, or load one frame. -/
theorem exec_enc_queue_le {i : Instr} (hu : unitOf i = .enc) (hw : i.wellFormed = true) (h : exec i s = .next t)
    (hs : s.enc.EQ.length ≤ Config.MAX_FRAME) : t.enc.EQ.length ≤ Config.MAX_FRAME := by
  cases i with
  | encReset =>
    cases h
    exact Nat.zero_le _
  | encBuild r =>
    obtain ⟨-, ⟨-, rfl⟩ | ⟨-, rfl⟩⟩ := exec_encBuild_next h
    · exact hs
    · exact frame_length_le Config.params (requestDatagram_length_le hw)
  | encEmit =>
    obtain ⟨-, rfl⟩ | ⟨b, q, hq, rfl⟩ := exec_encEmit_next h
    · exact hs
    · rw [hq, List.length_cons] at hs
      exact Nat.le_of_succ_le hs
  | _ => cases hu

theorem State.Inv.applyDec (hs : s.Inv) (b : Byte) : (s.applyDec (decByte Config.params b s.dec)).Inv where
  queue := hs.queue
  dec := decByte_inv b hs.dec
  emitted dg hdg := by
    rw [applyDec_emitted, List.mem_append, Option.mem_toList] at hdg
    exact hdg.elim (hs.emitted dg) fun h => decByte_emit_good hs.dec h

/-- A well-formed operation keeps the invariant: each unit's operations keep its part, and change no other. -/
theorem exec_inv {i : Instr} (hw : i.wellFormed = true) (h : exec i s = .next t) (hs : s.Inv) : t.Inv := by
  cases hu : unitOf i with
  | enc =>
    have ht := exec_eq_withUnit (by simp [hu]) h
    have hdec : t.dec = s.dec := by rw [ht, hu]; rfl
    have hem : t.emitted = s.emitted := by rw [ht, hu]; rfl
    exact ⟨exec_enc_queue_le hu hw h hs.queue, hdec ▸ hs.dec, hem ▸ hs.emitted⟩
  | dec =>
    rcases exec_of_unitOf_dec hu with rfl | ⟨b, hb⟩
    · cases h
      exact ⟨hs.queue, trivial, hs.emitted⟩
    · rw [hb] at h
      cases h
      exact hs.applyDec b
  | all =>
    cases i with
    | reset =>
      cases h
      exact ⟨Nat.zero_le _, trivial, hs.emitted⟩
    | _ => cases hu
  | cks | host | none =>
    rw [exec_eq_withUnit (by simp [hu]) h, hu]
    exact ⟨hs.queue, hs.dec, hs.emitted⟩

theorem State.Inv.beginStep (hs : s.Inv) (rest : List Input) : (s.beginStep rest).Inv :=
  ⟨hs.queue, hs.dec, hs.emitted⟩

theorem State.Inv.wait (hs : s.Inv) (ops : List Instr) : (s.wait ops).Inv := ⟨hs.queue, hs.dec, hs.emitted⟩

theorem runCycle_inv {p : PortIn} (h : runCycle p s = .next t) (hs : s.Inv) : t.Inv :=
  runInstrs_keeps (Q := State.Inv) (fun _ hi _ _ _ he hu => exec_inv (ops_wellFormed hi) he hu)
    (fun _ ws hu => hu.wait ws) hs h

/-- Settles O49: a step is one well-formed operation or one cycle of them, and each operation keeps the invariant. -/
theorem stepKeepsTheInvariant : Obligations.StepKeepsTheInvariant := by
  intro s t hs h
  obtain ⟨rest, ⟨i, hw, he⟩ | ⟨p, hc⟩⟩ := step_next h
  · exact exec_inv hw he (hs.beginStep rest)
  · exact runCycle_inv hc (hs.beginStep rest)

end Sys2Proof.Machine

/-! ## Live registers -/

namespace Sys2Proof.Machine

/-- Two decoder steps that show the same and leave decoders that agree on their live registers. -/
def DecStep.Same (r q : DecStep) : Prop := r.emit = q.emit ∧ r.event = q.event ∧ r.dec.SameLive q.dec

theorem quietly_same {d e : Dec} (h : d.SameLive e) : (quietly d).Same (quietly e) := ⟨rfl, rfl, h⟩

theorem drop_same {d e : Dec} (h : d.esc = e.esc) (ev : Event) : (drop d ev).Same (drop e ev) :=
  ⟨rfl, rfl, rfl, h, trivial⟩

/-- Two buffers that agree below `k` agree one byte further when both write that byte (past the buffer's end nothing is
written: log 12). -/
theorem take_setIfInBounds_congr {v w : Vector Byte 251} {k n : Nat} (b : Byte)
    (h : v.toList.take k = w.toList.take k) (hn : n ≤ k + 1) :
    (v.setIfInBounds k b).toList.take n = (w.setIfInBounds k b).toList.take n := by
  by_cases hk : k < 251
  · have hnext : (v.setIfInBounds k b).toList.take (k + 1) = (w.setIfInBounds k b).toList.take (k + 1) := by
      rw [take_setIfInBounds v b hk, take_setIfInBounds w b hk, h]
    simpa only [List.take_take, Nat.min_eq_left hn] using congrArg (List.take n) hnext
  · have hvw : v = w := by
      have hle : 251 ≤ k := Nat.le_of_not_lt hk
      rw [List.take_of_length_le (by simpa), List.take_of_length_le (by simpa)] at h
      exact Vector.toList_inj.mp h
    rw [hvw]

variable {P : Config.Params} {d e : Dec}

theorem onCmd_same (b : Byte) (h : d.esc = e.esc) : (onCmd P b d).Same (onCmd P b e) := by
  simp only [onCmd]
  split
  · exact quietly_same ⟨rfl, h, rfl, rfl⟩
  · exact drop_same h _

theorem onLen_same (b : Byte) (hd : d.dstate = .awaitingLen) (h : d.SameLive e) :
    (onLen P b d).Same (onLen P b e) := by
  obtain ⟨-, hesc, h⟩ := h
  rw [hd] at h
  obtain ⟨hcmd, hck⟩ := h
  simp only [onLen]
  split
  · exact drop_same hesc _
  · exact quietly_same ⟨rfl, hesc, hcmd, by simp [hck], rfl, rfl, rfl⟩

theorem onId0_same (b : Byte) (hd : d.dstate = .awaitingId0) (h : d.SameLive e) : (onId0 b d).Same (onId0 b e) := by
  obtain ⟨-, hesc, h⟩ := h
  rw [hd] at h
  obtain ⟨hcmd, hck, hplen, hidx, hbuf⟩ := h
  exact quietly_same ⟨rfl, hesc, hcmd, by simp [hck], hplen, hidx, hbuf, by simp [setId3]⟩

theorem onId1_same (b : Byte) (hd : d.dstate = .awaitingId1) (h : d.SameLive e) : (onId1 b d).Same (onId1 b e) := by
  obtain ⟨-, hesc, h⟩ := h
  rw [hd] at h
  obtain ⟨hcmd, hck, hplen, hidx, hbuf, h3⟩ := h
  exact quietly_same ⟨rfl, hesc, hcmd, by simp [hck], hplen, hidx, hbuf, by simp [setId2, h3], by simp [setId2]⟩

theorem onId2_same (b : Byte) (hd : d.dstate = .awaitingId2) (h : d.SameLive e) : (onId2 b d).Same (onId2 b e) := by
  obtain ⟨-, hesc, h⟩ := h
  rw [hd] at h
  obtain ⟨hcmd, hck, hplen, hidx, hbuf, h3, h2⟩ := h
  exact quietly_same ⟨rfl, hesc, hcmd, by simp [hck], hplen, hidx, hbuf, by simp [setId1, h3], by simp [setId1, h2],
    by simp [setId1]⟩

theorem onId3_same (b : Byte) (hd : d.dstate = .awaitingId3) (h : d.SameLive e) : (onId3 b d).Same (onId3 b e) := by
  obtain ⟨-, hesc, h⟩ := h
  rw [hd] at h
  obtain ⟨hcmd, hck, hplen, hidx, hbuf, h3, h2, h1⟩ := h
  have hid : setId0 d.id b = setId0 e.id b := by rw [setId0, setId0, h3, h2, h1]
  simp only [onId3, hplen]
  split
  · next h0 => exact quietly_same ⟨rfl, hesc, hcmd, by simp [hck], rfl, hid, by simp [h0]⟩
  · exact quietly_same ⟨rfl, hesc, hcmd, by simp [hck], rfl, hidx, hbuf, hid⟩

theorem onData_same (b : Byte) (hd : d.dstate = .awaitingData) (h : d.SameLive e) : (onData b d).Same (onData b e) := by
  obtain ⟨-, hesc, h⟩ := h
  rw [hd] at h
  obtain ⟨hcmd, hck, hplen, hidx, hbuf, hid⟩ := h
  have hnext : (d.DBUF.setIfInBounds d.idx.toNat b).toList.take (d.idx + 1).toNat =
      (e.DBUF.setIfInBounds d.idx.toNat b).toList.take (d.idx + 1).toNat :=
    take_setIfInBounds_congr b hbuf (by bv_omega)
  simp only [onData, ← hplen, ← hidx, ← hck]
  split
  · next hlast => exact quietly_same ⟨rfl, hesc, hcmd, rfl, rfl, hid, by rwa [hlast] at hnext⟩
  · exact quietly_same ⟨rfl, hesc, hcmd, rfl, rfl, rfl, hnext, hid⟩

theorem onCrc0_same (b : Byte) (hd : d.dstate = .awaitingCrc0) (h : d.SameLive e) : (onCrc0 b d).Same (onCrc0 b e) := by
  obtain ⟨-, hesc, h⟩ := h
  rw [hd] at h
  obtain ⟨hcmd, hck, hplen, hid, hbuf⟩ := h
  exact quietly_same ⟨rfl, hesc, hcmd, hck, hplen, hid, rfl, hbuf⟩

theorem onCrc1_same (b : Byte) (hd : d.dstate = .awaitingCrc1) (h : d.SameLive e) : (onCrc1 b d).Same (onCrc1 b e) := by
  obtain ⟨-, hesc, h⟩ := h
  rw [hd] at h
  obtain ⟨hcmd, hck, hplen, hid, hhi, hbuf⟩ := h
  have hdg : d.datagram = e.datagram := by rw [Dec.datagram, Dec.datagram, hcmd, hid, hbuf, hplen]
  simp only [onCrc1, hhi, hck]
  split
  · exact ⟨by rw [hdg], rfl, rfl, hesc, trivial⟩
  · exact drop_same hesc _

theorem dispatch_same (b : Byte) (h : d.SameLive e) : (dispatch P b d).Same (dispatch P b e) := by
  obtain ⟨hst, hesc, -⟩ := id h
  unfold dispatch
  rw [← hst]
  cases hd : d.dstate with
  | awaitingStart => exact quietly_same h
  | awaitingCmd => exact onCmd_same b hesc
  | awaitingLen => exact onLen_same b hd h
  | awaitingId0 => exact onId0_same b hd h
  | awaitingId1 => exact onId1_same b hd h
  | awaitingId2 => exact onId2_same b hd h
  | awaitingId3 => exact onId3_same b hd h
  | awaitingData => exact onData_same b hd h
  | awaitingCrc0 => exact onCrc0_same b hd h
  | awaitingCrc1 => exact onCrc1_same b hd h
  | done => exact quietly_same h

/-- Only `DEC.dstate` and `DEC.esc` decide what a resynchronization shows and leaves live. -/
theorem resync_same (h : d.SameLive e) : (resync d).Same (resync e) := by
  obtain ⟨hst, hesc, -⟩ := h
  exact ⟨rfl, by simp only [resync, hst], rfl, hesc, trivial⟩

/-- What a decoder leaves of its live registers does not depend on the escape flag. -/
theorem Dec.SameLive.setEsc (h : d.SameLive e) (x : Bool) :
    ({ d with esc := x } : Dec).SameLive { e with esc := x } := by
  obtain ⟨hst, -, h⟩ := h
  exact ⟨hst, rfl, h⟩

/-- One DEC.BYTE reads live registers only (42_decoder.md R173). -/
theorem decByte_same (b : Byte) (h : d.SameLive e) : (decByte P b d).Same (decByte P b e) := by
  have hesc : d.esc = e.esc := by
    obtain ⟨-, hesc, -⟩ := h
    exact hesc
  rcases decByte_cases P b d with ⟨rfl, h0, hd⟩ | ⟨rfl, h0, hd⟩ | ⟨hl, hd⟩
  · rw [hd, decByte_start P (hesc ▸ h0)]
    exact resync_same h
  · rw [hd, decByte_esc P (hesc ▸ h0)]
    exact quietly_same (h.setEsc true)
  · rw [hd, decByte_literal P (hesc ▸ hl)]
    exact dispatch_same b (h.setEsc false)

/-- Settles O51, by induction on the bytes. -/
theorem onlyLiveRegistersMatter : Obligations.OnlyLiveRegistersMatter := by
  intro P bs
  induction bs with
  | nil => exact fun d e h => ⟨rfl, h⟩
  | cons b bs ih =>
    intro d e h
    obtain ⟨hemit, hevent, hlive⟩ := decByte_same (P := P) b h
    obtain ⟨hshown, hend⟩ := ih _ _ hlive
    rw [decFeed_cons, decFeed_cons]
    exact ⟨by rw [hemit, hevent, hshown], hend⟩

end Sys2Proof.Machine

/-! ## Each unit's own operations

A run and the same run without the operations of the other units go step by step together: their states differ only
outside the unit (`State.SameUnit`), so they perform the unit's operations, and RESET, in the same order and with the same
results (20_memory.md R74). -/

namespace Sys2Proof.Machine

/-- `a` is `s` but for what other units than `u` hold. -/
def State.SameUnit (u : UnitName) : State → State → Prop :=
  Relation.ReflTransGen fun s a => ∃ v b, v ≠ u ∧ a = s.withUnit v b

/-- The operations of the unit `u`, among them RESET, which belongs to all: at each of the three units the model's
`touchesDec`, `touchesEnc`, `touchesCks`. -/
def touches (u : UnitName) (i : Instr) : Bool := unitOf i == u || unitOf i == .all

theorem touches_iff {u : UnitName} {i : Instr} : touches u i = true ↔ unitOf i = u ∨ unitOf i = .all := by
  simp [touches]

variable {u : UnitName} {s t a : State}

theorem State.withUnit_back (v : UnitName) (s a : State) : (s.withUnit v a).withUnit v s = s := by cases v <;> rfl

/-- After RESET two states differ where they differed before it. -/
theorem State.withUnit_resetBlock (v : UnitName) (s a : State) :
    (s.withUnit v a).resetBlock = s.resetBlock.withUnit v (s.withUnit v a).resetBlock := by
  cases v <;> rfl

theorem held_withUnit {i : Instr} {v : UnitName} (hv : unitOf i = .enc → v ≠ .enc) (s a : State) :
    held i (s.withUnit v a) = held i s := by
  by_cases hi : unitOf i = .enc
  · exact held_congr i (by rw [State.withUnit_enc_of_ne (hv hi)])
  · rw [held_of_unitOf_ne hi, held_of_unitOf_ne hi]

/-- What the other units' registers have no part in is the same. -/
theorem State.SameUnit.eq_of_withUnit {α : Type} {f : State → α} (hf : ∀ s v a, v ≠ u → f (s.withUnit v a) = f s)
    (h : State.SameUnit u s a) : f a = f s := by
  induction h with
  | refl => rfl
  | tail _ hstep ih =>
    obtain ⟨v, b, hv, rfl⟩ := hstep
    rw [hf _ v b hv, ih]

/-- Whether one of the unit's operations is held, its own registers decide (60_exceptions.md R310). -/
theorem State.SameUnit.held_eq {i : Instr} (hi : touches u i = true) (h : State.SameUnit u s a) :
    held i a = held i s := by
  refine h.eq_of_withUnit fun s v b hv => held_withUnit (fun henc => ?_) s b
  rcases touches_iff.mp hi with hu | hall
  · rwa [← henc, hu]
  · rw [hall] at henc
    cases henc

theorem State.SameUnit.held_filter {ws : List Instr} (h : State.SameUnit u s a) (hw : ∀ w ∈ ws, held w s = true) :
    ∀ w ∈ ws.filter (touches u), held w a = true := by
  intro w hmem
  obtain ⟨hmem, htouch⟩ := List.mem_filter.mp hmem
  rw [h.held_eq htouch, hw w hmem]

/-- The unit's operations do to it what they do whatever the other units hold. -/
theorem State.SameUnit.exec_touches {i : Instr} (hi : touches u i = true) (h : State.SameUnit u s a)
    (ht : exec i s = .next t) : ∃ b, exec i a = .next b ∧ State.SameUnit u t b := by
  induction h with
  | refl => exact ⟨t, ht, .refl⟩
  | @tail c _ _ hstep ih =>
    obtain ⟨v, b, hv, rfl⟩ := hstep
    obtain ⟨d, hd, htd⟩ := ih
    by_cases hall : unitOf i = .all
    · cases i with
      | reset =>
        cases hd
        exact ⟨_, rfl, htd.tail ⟨v, _, hv, State.withUnit_resetBlock v c b⟩⟩
      | _ => cases hall
    · have hu : unitOf i = u := (touches_iff.mp hi).resolve_right hall
      exact ⟨_, exec_withUnit hall (by rwa [hu]) b hd, htd.tail ⟨v, b, hv, rfl⟩⟩

/-- Another unit's operation leaves the unit as it was. -/
theorem State.SameUnit.exec_other {i : Instr} (hi : touches u i = false) (h : State.SameUnit u s a)
    (ht : exec i s = .next t) : State.SameUnit u t a := by
  obtain ⟨hu, hall⟩ : unitOf i ≠ u ∧ unitOf i ≠ .all := by simpa [touches] using hi
  refine h.head ⟨unitOf i, s, hu, ?_⟩
  rw [exec_eq_withUnit hall ht, State.withUnit_back]

/-- With every operation held a run has no step (60_exceptions.md R310). -/
theorem runOps_all_held {ws : List Instr} (hw : ∀ w ∈ ws, held w s = true) : runOps ws s = .next (s, ws) := by
  rcases runOps_cases ws s with ⟨-, h⟩ | ⟨_, i, _, rfl, -, hi, -⟩
  · exact h
  · rw [hw i (by simp)] at hi
    cases hi

/-- A run, and the run of the unit's operations alone: they end in states that are the same for the unit, with the same
of its operations waiting. -/
theorem runOps_filter_touches {ops waiting : List Instr} (h : runOps ops s = .next (t, waiting))
    (ha : State.SameUnit u s a) :
    ∃ b, runOps (ops.filter (touches u)) a = .next (b, waiting.filter (touches u)) ∧ State.SameUnit u t b := by
  induction hn : ops.length generalizing ops s a with
  | zero =>
    rw [List.length_eq_zero_iff.mp hn] at h ⊢
    cases h
    exact ⟨a, rfl, ha⟩
  | succ n ih =>
    rcases runOps_cases ops s with ⟨hw, he⟩ | ⟨ws, i, is, rfl, hw, hi, ⟨v, hv, hr⟩ | ⟨r, -, hr⟩⟩
    · rw [he] at h
      cases h
      exact ⟨a, runOps_all_held (ha.held_filter hw), ha⟩
    · rw [hr] at h
      have hlen : (ws ++ is).length = n := by simp at hn ⊢; omega
      cases hti : touches u i with
      | true =>
        obtain ⟨c, hc, hvc⟩ := ha.exec_touches hti hv
        obtain ⟨b, hb, htb⟩ := ih h hvc hlen
        refine ⟨b, ?_, htb⟩
        rw [List.filter_append, List.filter_cons_of_pos hti,
          runOps_held_next (ha.held_filter hw) (by rw [ha.held_eq hti, hi]) hc, ← List.filter_append, hb]
      | false =>
        obtain ⟨b, hb, htb⟩ := ih h (ha.exec_other hti hv) hlen
        refine ⟨b, ?_, htb⟩
        rw [List.filter_append, List.filter_cons_of_neg (by simp [hti]), ← List.filter_append, hb]
    · rw [hr] at h
      cases h

/-- A run that answers is its operations performed, and those still held put on their ports (log 2). -/
theorem runInstrs_next {ops : List Instr} (h : runInstrs ops s = .next t) :
    ∃ r waiting, runOps ops s = .next (r, waiting) ∧ (∀ w ∈ waiting, held w r = true) ∧ t = r.wait waiting := by
  rw [runInstrs] at h
  cases hr : runOps ops s with
  | next p =>
    obtain ⟨r, waiting⟩ := p
    obtain ⟨-, -, hw⟩ := runOps_keeps (Q := fun _ => True) (fun _ _ _ _ _ _ _ => trivial) trivial hr
    rw [hr] at h
    cases h
    exact ⟨r, waiting, rfl, hw, rfl⟩
  | fault f => cases f
  | refused r =>
    rw [hr] at h
    cases h

/-- The operations that wait are the encoder's (R310). -/
theorem filter_touches_enc_of_held {ws : List Instr} (hw : ∀ w ∈ ws, held w s = true) :
    ws.filter (touches .enc) = ws := by
  refine List.filter_eq_self.mpr fun w hmem => touches_iff.mpr (.inl ?_)
  by_contra hne
  simpa [held_of_unitOf_ne hne s] using hw w hmem

theorem State.SameUnit.dec_eq (h : State.SameUnit .dec s a) :
    a.dec = s.dec ∧ a.dgValid = s.dgValid ∧ a.emitted = s.emitted ∧ a.events = s.events := by
  have := h.eq_of_withUnit (f := fun s => (s.dec, s.dgValid, s.emitted, s.events))
    fun s v b hv => by simp [State.withUnit, hv]
  simpa using this

theorem State.SameUnit.enc_eq (h : State.SameUnit .enc s a) :
    a.enc = s.enc ∧ a.sent = s.sent ∧ a.pending = s.pending := by
  have := h.eq_of_withUnit (f := fun s => (s.enc, s.sent, s.pending)) fun s v b hv => by simp [State.withUnit, hv]
  simpa using this

theorem State.SameUnit.cks_eq (h : State.SameUnit .cks s a) :
    a.cks = s.cks ∧ a.ckResult = s.ckResult ∧ a.finished = s.finished := by
  have := h.eq_of_withUnit (f := fun s => (s.cks, s.ckResult, s.finished)) fun s v b hv => by simp [State.withUnit, hv]
  simpa using this

/-- `runOps_filter_touches` for a run from one state, as `runInstrs` shows it. -/
theorem runInstrs_filter_touches (u : UnitName) {ops waiting : List Instr} (h : runOps ops s = .next (t, waiting)) :
    ∃ b, runInstrs (ops.filter (touches u)) s = .next (b.wait (waiting.filter (touches u))) ∧ State.SameUnit u t b := by
  obtain ⟨b, hb, htb⟩ := runOps_filter_touches (u := u) h .refl
  exact ⟨b, by rw [runInstrs, hb, leaveWaiting], htb⟩

/-- Settles O53: the run of each unit's own operations ends in a state that is the same for that unit; what is left
waiting is the encoder's. -/
theorem decoderIgnoresTheOtherUnits : Obligations.DecoderIgnoresTheOtherUnits := by
  intro l s t h
  obtain ⟨r, waiting, hr, hw, rfl⟩ := runInstrs_next h
  refine ⟨?_, ?_, ?_⟩
  · obtain ⟨b, hb, hsame⟩ := runInstrs_filter_touches .dec hr
    exact ⟨_, hb, hsame.dec_eq⟩
  · obtain ⟨b, hb, hsame⟩ := runInstrs_filter_touches .enc hr
    obtain ⟨henc, hsent, hpending⟩ := hsame.enc_eq
    rw [filter_touches_enc_of_held hw] at hb
    exact ⟨_, hb, henc, hsent, by rw [State.wait_pending, State.wait_pending, hpending]⟩
  · obtain ⟨b, hb, hsame⟩ := runInstrs_filter_touches .cks hr
    exact ⟨_, hb, hsame.cks_eq⟩

end Sys2Proof.Machine

/-! ## Encodings: what the decoder of operations reads

`opcodeOf_cases` says once what an operation word can be (30_encoding.md R91, R92), with one lemma for what each case
decodes to; `decodeWire_cases` says what a byte on the decoder input can be (log 19). -/

namespace Sys2Proof.Machine

/-- The rows of R91 that take no byte operand: the opcode, and the instruction with the request port's request. -/
def fixedRows (port : ReqPort) : List (Byte × Instr) :=
  [(0x00, .idle), (0x01, .reset), (0x10, .ckReset), (0x12, .ckFinish), (0x20, .encReset),
   (0x21, .encBuild port.request), (0x22, .encEmit), (0x30, .decReset)]

/-- The ten opcodes of R91. -/
def opcodes : List Byte := [0x00, 0x01, 0x10, 0x11, 0x12, 0x20, 0x21, 0x22, 0x30, 0x31]

/-- A row's word without a byte operand decodes to the row's instruction when `imm8` is 0x00, and is reserved
otherwise. -/
theorem decodeOp_fixed {w : Word16} {port : ReqPort} {i : Instr} (h : (opcodeOf w, i) ∈ fixedRows port) :
    decodeOp w port = fixedRow w i := by
  simp only [fixedRows, List.mem_cons, Prod.mk.injEq, List.not_mem_nil, or_false] at h
  rcases h with h | h | h | h | h | h | h | h <;>
  · obtain ⟨ho, rfl⟩ := h
    rw [decodeOp, ho]
    rfl

theorem decodeOp_ckUpdate {w : Word16} (port : ReqPort) (h : opcodeOf w = 0x11) :
    decodeOp w port = .ok (.ckUpdate (imm8Of w)) := by
  rw [decodeOp, h]
  rfl

theorem decodeOp_decByte {w : Word16} (port : ReqPort) (h : opcodeOf w = 0x31) :
    decodeOp w port = .ok (.decByte (imm8Of w)) := by
  rw [decodeOp, h]
  rfl

/-- Any other opcode is reserved (R92). -/
theorem decodeOp_reserved {w : Word16} (port : ReqPort) (h : opcodeOf w ∉ opcodes) :
    decodeOp w port = .error (.reservedOpcode w) := by
  unfold decodeOp
  split
  case h_11 => rfl
  all_goals
    next ho => exact absurd (by rw [ho]; decide) h

theorem fixedRow_zero {w : Word16} (i : Instr) (h : imm8Of w = 0x00) : fixedRow w i = .ok i := if_pos h

theorem fixedRow_nonzero {w : Word16} (i : Instr) (h : imm8Of w ≠ 0x00) : fixedRow w i = .error (.reservedImm8 w) :=
  if_neg h

/-- Everything an operation word can be (R91, R92). -/
theorem opcodeOf_cases (w : Word16) (port : ReqPort) :
    (∃ i, (opcodeOf w, i) ∈ fixedRows port) ∨ opcodeOf w = 0x11 ∨ opcodeOf w = 0x31 ∨ opcodeOf w ∉ opcodes := by
  by_cases h : opcodeOf w ∈ opcodes
  · simp only [opcodes, List.mem_cons, List.not_mem_nil, or_false] at h
    rcases h with h | h | h | h | h | h | h | h | h | h <;> simp [fixedRows, h]
  · exact .inr (.inr (.inr h))

/-- Everything a byte on the decoder input can be: a command row's code, CMD.Zero's, or no command row's (log 19). -/
theorem decodeWire_cases (P : Config.Params) (b : Byte) :
    (∃ c : Command, c.code P = b ∧ decodeWire P b = c.instr) ∨ (b = 0x00 ∧ decodeWire P b = .cmdZero) ∨
      decodeWire P b = .decByte b := by
  unfold decodeWire
  split
  · next c hc => exact .inl ⟨c, by simpa using List.find?_some hc, rfl⟩
  · split
    · next hb => exact .inr (.inl ⟨hb, rfl⟩)
    · exact .inr (.inr rfl)

theorem encode_command (c : Command) : encode c.instr = .wire (c.code Config.params) := by cases c <;> rfl

theorem encode_accessor (f : Accessor) (dg : Datagram) : encode (f.instr dg) = .call f dg := by cases f <;> rfl

/-- A row's instruction is encoded in the row's word. -/
theorem encode_fixed {port : ReqPort} {o : Byte} {i : Instr} (h : (o, i) ∈ fixedRows port) :
    ∃ port', encode i = .op (opWord o 0x00) port' := by
  simp only [fixedRows, List.mem_cons, Prod.mk.injEq, List.not_mem_nil, or_false] at h
  rcases h with h | h | h | h | h | h | h | h <;>
  · obtain ⟨rfl, rfl⟩ := h
    exact ⟨_, rfl⟩

/-- The port that shows a well-formed request shows just that request (10_state.md R43). -/
theorem request_port {r : Request} (h : r.wellFormed = true) : r.port.request = r := by
  have hlen := (Request.wellFormed_iff r).mp h
  have hdata : (Vector.ofFn fun i : Fin 251 => r.data.getD i 0).toList.take r.plen.toNat = r.data := by
    apply List.ext_getElem
    · simp [hlen]
    · intro n h1 h2
      simp [h2]
  exact congrArg (fun bs => ({ r with data := bs } : Request)) hdata

/-- Settles O1. A word without operand, a command code and a call are read back by evaluation; a byte operand and a
request are read back out of the word and the port. -/
theorem decodeOfEncodeIsIdentity : Obligations.DecodeOfEncodeIsIdentity := by
  intro i hw
  cases i with
  | ckUpdate b =>
    show decodeOp (opWord 0x11 b) .quiet = _
    rw [decodeOp_ckUpdate _ (opcodeOf_opWord _ _), imm8Of_opWord]
  | decByte b =>
    show decodeOp (opWord 0x31 b) .quiet = _
    rw [decodeOp_decByte _ (opcodeOf_opWord _ _), imm8Of_opWord]
  | encBuild r =>
    show decodeOp (opWord 0x21 0x00) r.port = _
    rw [decodeOp_fixed (i := .encBuild r.port.request) (by simp [fixedRows]),
      fixedRow_zero _ (imm8Of_opWord _ _), request_port hw]
  | _ => rfl

/-- An operation word that decodes is kept by its instruction (R90, R91). -/
theorem encode_of_decodeOp {w : Word16} {port : ReqPort} {i : Instr} (h : decodeOp w port = .ok i) :
    ∃ port', encode i = .op w port' := by
  rcases opcodeOf_cases w port with ⟨j, hj⟩ | ho | ho | ho
  · rw [decodeOp_fixed hj] at h
    by_cases hz : imm8Of w = 0x00
    · rw [fixedRow_zero j hz] at h
      cases h
      obtain ⟨port', he⟩ := encode_fixed hj
      rw [← hz, opWord_opcodeOf_imm8Of] at he
      exact ⟨port', he⟩
    · rw [fixedRow_nonzero j hz] at h
      cases h
  · rw [decodeOp_ckUpdate port ho] at h
    cases h
    refine ⟨.quiet, ?_⟩
    rw [encode, ← ho, opWord_opcodeOf_imm8Of]
  · rw [decodeOp_decByte port ho] at h
    cases h
    refine ⟨.quiet, ?_⟩
    rw [encode, ← ho, opWord_opcodeOf_imm8Of]
  · rw [decodeOp_reserved port ho] at h
    cases h

/-- Settles O2, by the form of the code. -/
theorem decodedIsWellFormedAndKeepsItsWord : Obligations.DecodedIsWellFormedAndKeepsItsWord := by
  intro c i h
  refine ⟨decode_wellFormed h, ?_⟩
  cases c with
  | op w port => exact encode_of_decodeOp h
  | wire b =>
    cases h
    show encode (decodeWire Config.params b) = .wire b ∨ decodeWire Config.params b = .decByte b
    rcases decodeWire_cases Config.params b with ⟨c, rfl, hd⟩ | ⟨rfl, hd⟩ | hd
    · exact .inl (by rw [hd, encode_command])
    · exact .inl rfl
    · exact .inr hd
  | call f dg =>
    cases h
    exact encode_accessor f dg

end Sys2Proof.Machine

/-! ## Encodings: the opcode table -/

namespace Sys2Proof.Machine

/-- A row that fixes every bit of a byte has one code. -/
theorem holds_byte {m : String} {p : Nat} {b : Byte} (h : TableRow.holds ⟨m, p, 0xFF⟩ b.toNat = true) :
    b = BitVec.ofNat 8 p := by
  have hp : b.toNat &&& (2 ^ 8 - 1) = p := eq_of_beq h
  rw [Nat.and_two_pow_sub_one_eq_mod, Nat.mod_eq_of_lt b.isLt] at hp
  rw [← hp, BitVec.ofNat_toNat, BitVec.setWidth_eq]

/-- A row that fixes every bit of a word has one word. -/
theorem holds_word {m : String} {p : Nat} {w : Word16} (h : TableRow.holds ⟨m, p, 0xFFFF⟩ w.toNat = true) :
    w = BitVec.ofNat 16 p := by
  have hp : w.toNat &&& (2 ^ 16 - 1) = p := eq_of_beq h
  rw [Nat.and_two_pow_sub_one_eq_mod, Nat.mod_eq_of_lt w.isLt] at hp
  rw [← hp, BitVec.ofNat_toNat, BitVec.setWidth_eq]

/-- The high bits of a word are its opcode's. -/
theorem and_opcode_mask (w : Word16) : w &&& 0xFF00 = opWord (opcodeOf w) 0x00 := by
  apply BitVec.eq_of_getLsbD_eq
  intro i hi
  simp only [opWord, opcodeOf, BitVec.getLsbD_and, BitVec.getLsbD_append, BitVec.getLsbD_extractLsb']
  interval_cases i <;> simp

/-- A row that fixes the high byte of a word fixes its opcode. -/
theorem holds_opcode {m : String} {o : Byte} {w : Word16}
    (h : TableRow.holds ⟨m, (opWord o 0x00).toNat, 0xFF00⟩ w.toNat = true) : opcodeOf w = o := by
  have hp : (w &&& 0xFF00).toNat = (opWord o 0x00).toNat := by
    rw [BitVec.toNat_and]
    exact eq_of_beq h
  rw [and_opcode_mask] at hp
  rw [← opcodeOf_opWord (opcodeOf w) 0x00, BitVec.eq_of_toNat_eq hp, opcodeOf_opWord]

/-- Every word of a row of format OP16 decodes to that row's instruction (R91). -/
theorem op16Row_decodes {r : TableRow} (hr : r ∈ op16Rows) {w : Word16} (h : r.holds w.toNat = true) (port : ReqPort) :
    ∃ i, decode (.op w port) = .ok i ∧ i.mnemonic = r.mnemonic := by
  simp only [op16Rows, List.mem_cons, List.not_mem_nil, or_false] at hr
  rcases hr with rfl | rfl | rfl | rfl | rfl | rfl | rfl | rfl | rfl | rfl
  case inr.inr.inr.inl => exact ⟨_, decodeOp_ckUpdate port (holds_opcode (o := 0x11) h), rfl⟩
  case inr.inr.inr.inr.inr.inr.inr.inr.inr => exact ⟨_, decodeOp_decByte port (holds_opcode (o := 0x31) h), rfl⟩
  all_goals
    rw [holds_word h]
    exact ⟨_, rfl, rfl⟩

/-- Every code of a row of format CMD8 decodes to that row's instruction (R87, R88). -/
theorem cmd8Row_decodes {r : TableRow} (hr : r ∈ cmd8Rows) {b : Byte} (h : r.holds b.toNat = true) :
    ∃ i, decode (.wire b) = .ok i ∧ i.mnemonic = r.mnemonic := by
  simp only [cmd8Rows, List.mem_cons, List.not_mem_nil, or_false] at hr
  rcases hr with rfl | rfl | rfl | rfl | rfl | rfl | rfl | rfl | rfl | rfl <;>
  · rw [holds_byte h]
    exact ⟨_, rfl, rfl⟩

/-- Settles O3. Two rows that share a word decode it to one instruction, and so have one mnemonic. -/
theorem tableRowsDecodeToTheirInstruction : Obligations.TableRowsDecodeToTheirInstruction := by
  have hop16 : ∀ r ∈ op16Rows, ∀ q ∈ op16Rows, r.mnemonic = q.mnemonic → r = q := by decide
  have hcmd8 : ∀ r ∈ cmd8Rows, ∀ q ∈ cmd8Rows, r.mnemonic = q.mnemonic → r = q := by decide
  refine ⟨fun w port r hr h => op16Row_decodes hr h port, fun b r hr h => cmd8Row_decodes hr h,
    fun w r hr q hq h h' => ?_, fun b r hr q hq h h' => ?_⟩
  · obtain ⟨i, hi, hm⟩ := op16Row_decodes hr h .quiet
    obtain ⟨j, hj, hm'⟩ := op16Row_decodes hq h' .quiet
    cases hi.symm.trans hj
    exact hop16 r hr q hq (hm.symm.trans hm')
  · obtain ⟨i, hi, hm⟩ := cmd8Row_decodes hr h
    obtain ⟨j, hj, hm'⟩ := cmd8Row_decodes hq h'
    cases hi.symm.trans hj
    exact hcmd8 r hr q hq (hm.symm.trans hm')

end Sys2Proof.Machine

/-! ## Steps on an operation -/

namespace Sys2Proof.Machine

/-- A step that finds an operation which is not held performs it (log 1). -/
theorem step_code {s : State} {c : Code} {i : Instr} {rest : List Input} (hp : s.pending = .code c :: rest)
    (hd : decode c = .ok i) (hi : held i s = false) : step s = exec i (s.beginStep rest) := by
  have hfree : heldInput (.code c) s = false := (heldInput_code hd).trans hi
  simp only [step, hp, takeEnabled_cons_free hfree, hd]

/-- A step that finds a reserved word refuses it (R92; 60_exceptions.md R309). -/
theorem step_rejected {s : State} {c : Code} {e : Reject} {rest : List Input} (hp : s.pending = .code c :: rest)
    (hd : decode c = .error e) : step s = .refused (refusalOf e) := by
  simp only [step, hp, takeEnabled_cons_free (heldInput_rejected hd), hd]

/-- Settles O6. -/
theorem stepRunsTheDecodedInstruction : Obligations.StepRunsTheDecodedInstruction :=
  fun _ _ _ _ hp hd hi => step_code hp hd hi

/-- Settles O4. A reserved word is one whose opcode no row has, or one with `imm8` other than 0x00 on a row without
operand. -/
theorem reservedWordsAreRefused : Obligations.ReservedWordsAreRefused := by
  refine ⟨fun w port hmem himm => ?_, fun s w port rest hres hp => ?_, rfl⟩
  · rcases opcodeOf_cases w port with ⟨i, hi⟩ | ho | ho | ho
    · have hz : imm8Of w = 0x00 := by
        rcases himm with h | h | h
        · simp [fixedRows, h] at hi
        · simp [fixedRows, h] at hi
        · exact h
      exact ⟨i, by rw [decode, decodeOp_fixed hi, fixedRow_zero i hz]⟩
    · exact ⟨_, decodeOp_ckUpdate port ho⟩
    · exact ⟨_, decodeOp_decByte port ho⟩
    · exact absurd hmem ho
  · rcases hres with ho | ⟨h11, h31, hz⟩
    · exact step_rejected hp (decodeOp_reserved port ho)
    · rcases opcodeOf_cases w port with ⟨i, hi⟩ | ho | ho | ho
      · exact step_rejected hp ((decodeOp_fixed hi).trans (fixedRow_nonzero i hz))
      · exact absurd ho h11
      · exact absurd ho h31
      · exact step_rejected hp (decodeOp_reserved port ho)

/-- Settles O5, by evaluation. -/
theorem writtenOutWordsDecode : Obligations.WrittenOutWordsDecode := by
  unfold Obligations.WrittenOutWordsDecode
  decide

end Sys2Proof.Machine

/-! ## The checksum over a byte sequence -/

namespace Sys2Proof.Machine

/-- The parity flag says whether the number of updates is odd (10_state.md R21). -/
theorem ckFold_par (K : Ck) (bs : List Byte) : (ckFold K bs).par = (K.par ^^ decide (bs.length % 2 = 1)) := by
  induction bs generalizing K with
  | nil => simp
  | cons b bs ih =>
    have hodd : decide ((bs.length + 1) % 2 = 1) = !decide (bs.length % 2 = 1) := by
      rw [← decide_not, decide_eq_decide]
      omega
    rw [ckFold_cons, ih, ckUpdate_par, List.length_cons, hodd, Bool.not_xor, Bool.xor_not]

theorem ckFold_ckReset_par (bs : List Byte) : (ckFold ckReset bs).par = decide (bs.length % 2 = 1) := by
  rw [ckFold_par, ckReset_par, Bool.false_xor]

/-- The checksum of a byte sequence is its fold from reset, padded to an even count (40_checksum.md R102). -/
theorem ckFinish_ckFold_ckReset (bs : List Byte) :
    ckFinish (ckFold ckReset bs) =
      ⟨(ckFold ckReset (if bs.length % 2 = 1 then bs ++ [0x00] else bs)).crc, false⟩ := by
  have hpar := ckFold_ckReset_par bs
  split
  · next hodd =>
    rw [ckFinish_odd (hpar.trans (decide_eq_true hodd)), ckFold_snoc, ckUpdate_crc]
  · next heven =>
    have hfalse := hpar.trans (decide_eq_false heven)
    rw [ckFinish_even hfalse, ← hfalse]

/-- CK.CRC on the machine (30_encoding.md R97): only the checksum unit changes. -/
theorem runInstrs_ckCrc (bs : List Byte) (s : State) :
    runInstrs (Pseudo.expand (.ckCrc bs) s) s = .next (s.returnCk (ckFinish (ckFold ckReset bs))) := by
  rw [Pseudo.expand, runInstrs_cons_next (held_ckReset s) (exec_ckReset s),
    runInstrs_append_next (runOps_ckUpdates bs _), runInstrs_singleton (held_ckFinish _), exec_ckFinish]
  rfl

/-- Settles O16. -/
theorem ckCrcReturnsThePaddedFold : Obligations.CkCrcReturnsThePaddedFold := by
  refine ⟨fun bs s => ⟨ckFold_ckReset_par bs, ?_⟩, fun s => runInstrs_ckCrc [] s⟩
  rw [runInstrs_ckCrc, ckFinish_ckFold_ckReset]
  rfl

end Sys2Proof.Machine

/-! ## Reading a frame byte by byte

With ESCAPE_CRC true every byte of a frame after START is the wire form of a logical or checksum byte; one lemma per
reading says what one such form does to it. -/

namespace Sys2Proof.Machine

/-- With ESCAPE_CRC true a frame is START and the wire form of the logical bytes and the checksum, high byte first
(30_encoding.md R81, R84). -/
theorem frame_of_escapeCrc {P : Config.Params} (hP : P.escapeCrc = true) (dg : Datagram) :
    frame P dg = Config.START ::
      (logicalBytes dg ++ [hiByte (frameCk dg).crc, loByte (frameCk dg).crc]).flatMap escByte := by
  simp [frame, escCrcByte, hP]

@[simp] theorem isUnescapedEsc_ESC : isUnescapedEsc Config.ESC false = true := rfl

@[simp] theorem isUnescapedStart_ESC : isUnescapedStart Config.ESC false = false := rfl

@[simp] theorem isUnescapedEsc_escaped (b : Byte) : isUnescapedEsc b true = false := by simp [isUnescapedEsc]

@[simp] theorem isUnescapedStart_escaped (b : Byte) : isUnescapedStart b true = false := by simp [isUnescapedStart]

theorem isUnescapedEsc_of_ne {b : Byte} (h : b ≠ Config.ESC) (esc : Bool) : isUnescapedEsc b esc = false := by
  simp [isUnescapedEsc, h]

theorem isUnescapedStart_of_ne {b : Byte} (h : b ≠ Config.START) (esc : Bool) : isUnescapedStart b esc = false := by
  simp [isUnescapedStart, h]

/-- The wire form of a byte has no unescaped START (R83). -/
theorem unescapedStarts_escByte (b : Byte) (rest : List Byte) :
    unescapedStarts false (escByte b ++ rest) = unescapedStarts false rest := by
  rcases escByte_cases b with ⟨h, -⟩ | ⟨h, hs, he⟩
  · simp [h, unescapedStarts]
  · simp [h, unescapedStarts, isUnescapedEsc_of_ne he, isUnescapedStart_of_ne hs]

/-- The wire form of a byte leaves no escape pending. -/
theorem escAfter_escByte (b : Byte) (rest : List Byte) : escAfter false (escByte b ++ rest) = escAfter false rest := by
  rcases escByte_cases b with ⟨h, -⟩ | ⟨h, -, he⟩
  · simp [h, escAfter]
  · simp [h, escAfter, isUnescapedEsc_of_ne he]

/-- The wire form of a byte without its escape is the byte (R82). -/
theorem literals_escByte (b : Byte) (rest : List Byte) :
    literals false (escByte b ++ rest) = b :: literals false rest := by
  rcases escByte_cases b with ⟨h, -⟩ | ⟨h, -, he⟩
  · simp [h, literals]
  · simp [h, literals, isUnescapedEsc_of_ne he]

theorem unescapedStarts_flatMap_escByte (bs : List Byte) : unescapedStarts false (bs.flatMap escByte) = 0 := by
  induction bs with
  | nil => rfl
  | cons b bs ih => rw [List.flatMap_cons, unescapedStarts_escByte, ih]

theorem escAfter_flatMap_escByte (bs : List Byte) : escAfter false (bs.flatMap escByte) = false := by
  induction bs with
  | nil => rfl
  | cons b bs ih => rw [List.flatMap_cons, escAfter_escByte, ih]

theorem literals_flatMap_escByte (bs : List Byte) : literals false (bs.flatMap escByte) = bs := by
  induction bs with
  | nil => rfl
  | cons b bs ih => rw [List.flatMap_cons, literals_escByte, ih]

/-- Settles O25. -/
theorem onlyTheFirstStartIsUnescaped : Obligations.OnlyTheFirstStartIsUnescaped :=
  fun _ dg hP => ⟨_, frame_of_escapeCrc hP dg, unescapedStarts_flatMap_escByte _, escAfter_flatMap_escByte _⟩

/-- Settles O26. -/
theorem unescapedFrameIsTheLogicalContent : Obligations.UnescapedFrameIsTheLogicalContent :=
  fun _ dg hP => ⟨_, frame_of_escapeCrc hP dg, literals_flatMap_escByte _⟩

end Sys2Proof.Machine

/-! ## Draining the encoder -/

namespace Sys2Proof.Machine

/-- ENC.DRAIN on the machine (30_encoding.md R97). -/
theorem runInstrs_encDrain (s : State) : runInstrs (Pseudo.expand .encDrain s) s =
    .next { s with enc := { s.enc with EQ := [] }, sent := s.sent ++ s.enc.EQ } := by
  rw [Pseudo.expand, runInstrs, runOps_encEmits s.enc.EQ s rfl, leaveWaiting, State.wait_nil]

/-- An ENC.BUILD of a valid Datagram on an idle encoder that answers has loaded the Datagram's frame (41_encoder.md
R122). -/
theorem exec_encBuild_buildRequest {dg : Datagram} {s t : State} (hv : validDatagram Config.params dg = true)
    (hq : s.enc.EQ = []) (h : exec (.encBuild (buildRequest dg)) s = .next t) :
    t = s.setEnc { ck := frameCk dg, EQ := frame Config.params dg } := by
  rw [exec_encBuild_idle (validRequest_buildRequest hv) hq] at h
  cases h
  rfl

/-- Settles O27. -/
theorem drainPutsOutTheQueue : Obligations.DrainPutsOutTheQueue := by
  refine ⟨runInstrs_encDrain, fun s t dg hv hq h => ?_⟩
  obtain rfl := exec_encBuild_buildRequest hv hq h
  exact ⟨_, runInstrs_encDrain _, rfl, rfl⟩

end Sys2Proof.Machine

/-! ## Command codes -/

namespace Sys2Proof.Machine

theorem definedCmd_iff (c : Byte) : definedCmd Config.params c = true ↔
    c ∈ ([0x01, 0x02, 0x03, 0x04, 0x05, 0x06, 0x07, 0x08, 0x3C] : List Byte) := by
  show _ ↔ c ∈ Command.all.map (Command.code Config.params)
  simp only [definedCmd, List.any_eq_true, beq_iff_eq, List.mem_map]

/-- What the decoder accepts as a command (30_encoding.md R88). -/
theorem accepted_iff (P : Config.Params) (c : Byte) : accepted P c = true ↔
    ((c.toNat ≤ 8 ∧ (c ≠ 0x00 ∨ P.acceptCmdZero = true)) ∨ c = P.extCode) := by
  simp [accepted]

/-- A byte that is not accepted where a command is awaited is dropped with BAD_CMD (60_exceptions.md R302). -/
theorem dispatch_badCmd {P : Config.Params} {c : Byte} {d : Dec} (hd : d.dstate = .awaitingCmd)
    (hc : accepted P c = false) : dispatch P c d = drop d (.badCmd c) := by
  simp [dispatch, hd, onCmd, hc]

/-- Settles O54. -/
theorem commandCodes : Obligations.CommandCodes := by
  refine ⟨definedCmd_iff, fun c hc => ?_, fun c => ?_, accepted_iff, fun P c d hd hl hc => ?_⟩
  · have hmarkers : ∀ k ∈ ([0x01, 0x02, 0x03, 0x04, 0x05, 0x06, 0x07, 0x08, 0x3C] : List Byte),
        k ≠ 0x2B ∧ k ≠ 0x2D := by decide
    exact hmarkers c ((definedCmd_iff c).mp hc)
  · simp [accepted_iff, Config.params]
  · rw [decByte_literal P hl]
    exact dispatch_badCmd hd hc

/-- Settles O55: a command row's meaning is that of DEC.BYTE of its code, by definition. -/
theorem commandBytesAreDecByte : Obligations.CommandBytesAreDecByte := by
  intro s row hrow
  simp only [List.mem_cons, List.not_mem_nil, or_false] at hrow
  rcases hrow with rfl | rfl | rfl | rfl | rfl | rfl | rfl | rfl | rfl | rfl <;> exact ⟨rfl, rfl, _, rfl⟩

end Sys2Proof.Machine

/-! ## The decoder on the wire form of a frame

`Dec.Awaits` is kept by every logical byte of a frame; the decoder's invariant then fixes its registers when the last
one has come (42_decoder.md R165). -/

namespace Sys2Proof.Machine

variable {P : Config.Params} {dg : Datagram} {d e : Dec} {b : Byte} {bs : List Byte}

/-- The states that wait for a logical byte, or have just received the last (42_decoder.md R155 to R162). -/
def inLogical : DState → Bool
  | .awaitingCmd | .awaitingLen | .awaitingId0 | .awaitingId1 | .awaitingId2 | .awaitingId3 | .awaitingData
  | .awaitingCrc0 => true
  | .awaitingStart | .awaitingCrc1 | .done => false

/-- The decoder is inside the frame of `dg`, and of its logical bytes `rest` is still to come. -/
structure Dec.Awaits (P : Config.Params) (dg : Datagram) (d : Dec) (rest : List Byte) : Prop where
  esc : d.esc = false
  inv : d.Inv P
  receiving : inLogical d.dstate = true
  bytes : d.received ++ rest = logicalBytes dg

/-- No handler writes `DEC.esc`. -/
theorem dispatch_esc (P : Config.Params) (b : Byte) (d : Dec) : (dispatch P b d).dec.esc = d.esc := by
  unfold dispatch
  cases d.dstate with
  | awaitingCmd =>
    simp only [onCmd]
    split <;> rfl
  | awaitingLen =>
    simp only [onLen]
    split <;> rfl
  | awaitingCrc1 =>
    simp only [onCrc1]
    split <;> rfl
  | _ => rfl

/-- A handler that only takes the byte in leaves the decoder waiting for the bytes after it. -/
theorem Dec.Awaits.next (h : d.Awaits P dg (b :: bs)) (hq : dispatch P b d = quietly e)
    (hst : inLogical e.dstate = true) (hr : e.received = d.received ++ [b]) :
    ∃ e, dispatch P b d = quietly e ∧ e.Awaits P dg bs := by
  have hesc := dispatch_esc P b d
  have hinv := dispatch_inv b h.inv
  rw [hq] at hesc hinv
  exact ⟨e, hq, hesc.trans h.esc, hinv, hst, by rw [hr, List.append_assoc, List.singleton_append, h.bytes]⟩

/-- The payload length that the decoder has taken from the frame's LEN byte (R85, R156). -/
theorem Dec.Awaits.plen (hv : validDatagram P dg = true) (h : d.Awaits P dg bs)
    (hst : d.dstate = .awaitingData ∨ d.dstate = .awaitingCrc0) : d.plen.toNat = dg.payload.length := by
  have hinv := h.inv
  have hbytes := h.bytes
  have hlen : d.plen = plenOf d.len ∧ d.len = lenByte dg.payload.length := by
    rcases hst with hd | hd <;>
    · simp only [Dec.Inv, hd] at hinv
      simp only [Dec.received, hd, logicalBytes, List.cons_append, List.cons.injEq] at hbytes
      obtain ⟨-, -, ⟨hplen, -⟩, -⟩ := hinv
      obtain ⟨-, hlen, -⟩ := hbytes
      exact ⟨hplen, hlen⟩
  obtain ⟨hplen, hlen⟩ := hlen
  obtain ⟨-, hmax⟩ := (validDatagram_iff P dg).mp hv
  rw [hplen, hlen, plenOf_lenByte hmax]

/-- Each logical byte is taken in: none of them is dropped, and no event is recorded. -/
theorem Dec.Awaits.dispatch (hv : validDatagram P dg = true) (h : d.Awaits P dg (b :: bs)) :
    ∃ e, Machine.dispatch P b d = quietly e ∧ e.Awaits P dg bs := by
  obtain ⟨hcmd, hmax⟩ := (validDatagram_iff P dg).mp hv
  have hbytes := h.bytes
  have hinv := h.inv
  cases hd : d.dstate with
  | awaitingCmd =>
    simp only [Dec.received, hd, logicalBytes, List.nil_append, List.cons.injEq] at hbytes
    obtain ⟨rfl, -⟩ := hbytes
    have hacc := accepted_of_definedCmd hcmd
    exact h.next (by simp only [Machine.dispatch, hd, onCmd, if_pos hacc]; rfl) rfl (by simp [Dec.received, hd])
  | awaitingLen =>
    simp only [Dec.received, hd, logicalBytes, List.singleton_append, List.cons.injEq] at hbytes
    obtain ⟨-, rfl, -⟩ := hbytes
    have hlong : ¬ ((lenByte dg.payload.length).toNat < Config.LEN_BIAS ∧ P.shortLen = .reject) := by
      simp [lenByte_toNat hmax, Config.LEN_BIAS]
    exact h.next (by simp only [Machine.dispatch, hd, onLen, if_neg hlong]; rfl) rfl
      (by simp [Dec.received, hd])
  | awaitingId0 => exact h.next (by simp only [Machine.dispatch, hd]; rfl) rfl (by simp [Dec.received, hd, setId3])
  | awaitingId1 => exact h.next (by simp only [Machine.dispatch, hd]; rfl) rfl (by simp [Dec.received, hd, setId2])
  | awaitingId2 => exact h.next (by simp only [Machine.dispatch, hd]; rfl) rfl (by simp [Dec.received, hd, setId1])
  | awaitingId3 =>
    simp only [Dec.Inv, hd] at hinv
    obtain ⟨-, -, -, hidx⟩ := hinv
    refine h.next (by simp only [Machine.dispatch, hd]; rfl) ?_ ?_
    · split <;> rfl
    · split <;> simp [Dec.received, hd, setId0, idBytes, hidx]
  | awaitingData =>
    simp only [Dec.Inv, hd] at hinv
    obtain ⟨-, -, -, hidx⟩ := hinv
    have hplen := h.plen hv (.inl hd)
    have hnext : (d.idx + 1).toNat = d.idx.toNat + 1 := by bv_omega
    have htake : (d.DBUF.setIfInBounds d.idx.toNat b).toList.take (d.idx + 1).toNat =
        d.DBUF.toList.take d.idx.toNat ++ [b] := by
      rw [hnext, take_setIfInBounds d.DBUF b (by omega)]
    refine h.next (by simp only [Machine.dispatch, hd]; rfl) ?_ ?_
    · split <;> rfl
    · split <;> simp only [Dec.received, hd, htake, List.cons_append, List.append_assoc]
  | awaitingCrc0 =>
    -- All the payload is in, so no byte can be left to come.
    simp only [Dec.Inv, hd] at hinv
    obtain ⟨-, -, -, hidx⟩ := hinv
    have hcount := congrArg List.length hbytes
    simp [Dec.received, hd, idBytes, hidx, h.plen hv (.inr hd)] at hcount
    omega
  | awaitingStart | awaitingCrc1 | done =>
    have hst := h.receiving
    rw [hd] at hst
    cases hst

/-- When the last logical byte has come the decoder awaits the checksum, with the Datagram in its working registers. -/
theorem Dec.Awaits.registers (hv : validDatagram P dg = true) (h : d.Awaits P dg []) :
    d.dstate = .awaitingCrc0 ∧ d.datagram = dg ∧ d.ck = ckFold ckReset (logicalBytes dg) := by
  have hbytes := h.bytes
  rw [List.append_nil] at hbytes
  have hinv := h.inv
  have hcount := congrArg List.length hbytes
  rw [logicalBytes_length] at hcount
  cases hd : d.dstate with
  | awaitingCrc0 =>
    simp only [Dec.Inv, hd] at hinv
    obtain ⟨-, hck, -, hidx⟩ := hinv
    rw [hbytes] at hck
    simp only [Dec.received, hd, logicalBytes, idBytes, List.cons_append, List.nil_append, List.cons.injEq,
      hidx] at hbytes
    obtain ⟨hcmd, -, h3, h2, h1, h0, hpayload⟩ := hbytes
    have hid : d.id = dg.id := by rw [← join32_id d.id, h3, h2, h1, h0, join32_id]
    exact ⟨rfl, by rw [Dec.datagram, hcmd, hid, hpayload], hck⟩
  | awaitingData =>
    simp only [Dec.Inv, hd] at hinv
    obtain ⟨-, -, -, hidx⟩ := hinv
    have hplen := h.plen hv (.inl hd)
    simp [Dec.received, hd, idBytes] at hcount
    omega
  | awaitingStart | awaitingCrc1 | done =>
    have hst := h.receiving
    rw [hd] at hst
    cases hst
  | _ => simp [Dec.received, hd] at hcount

/-- The wire form of a byte that a handler only takes in. -/
theorem decFeed_escByte_quietly (hesc : d.esc = false) (hq : dispatch P b d = quietly e) (rest : List Byte) :
    decFeed P (escByte b ++ rest) d = decFeed P rest e := by
  rw [decFeed_append, decFeed_escByte P b hesc, hq]
  rfl

/-- The wire form of the logical bytes to come takes the decoder to their end, and nothing is emitted or recorded. -/
theorem Dec.Awaits.decFeed (hv : validDatagram P dg = true) (h : d.Awaits P dg bs) :
    ∃ e : Dec, e.Awaits P dg [] ∧
      ∀ rest, Machine.decFeed P (bs.flatMap escByte ++ rest) d = Machine.decFeed P rest e := by
  induction bs generalizing d with
  | nil => exact ⟨d, h, fun _ => rfl⟩
  | cons b bs ih =>
    obtain ⟨c, hq, hc⟩ := h.dispatch hv
    obtain ⟨e, he, hfeed⟩ := ih hc
    refine ⟨e, he, fun rest => ?_⟩
    rw [List.flatMap_cons, List.append_assoc, decFeed_escByte_quietly h.esc hq, hfeed]

/-- A frame up to its checksum, whatever ESCAPE_CRC is: the decoder awaits the checksum of the frame's Datagram, and
only the frame it was inside has been recorded (R151). -/
theorem decFeed_frame_body (hv : validDatagram P dg = true) (hesc : d.esc = false) :
    ∃ e : Dec, e.esc = false ∧ e.dstate = .awaitingCrc0 ∧ e.datagram = dg ∧ e.ck = ckFold ckReset (logicalBytes dg) ∧
      ∀ rest, decFeed P (Config.START :: ((logicalBytes dg).flatMap escByte ++ rest)) d =
        ((decFeed P rest e).1, (decFeed P rest e).2.1, (resync d).event.toList ++ (decFeed P rest e).2.2) := by
  have hstart : (resync d).dec.Awaits P dg (logicalBytes dg) := ⟨hesc, resync_inv d, rfl, rfl⟩
  obtain ⟨e, he, hfeed⟩ := hstart.decFeed hv
  obtain ⟨hst, hdg, hck⟩ := he.registers hv
  refine ⟨e, he.esc, hst, hdg, hck, fun rest => ?_⟩
  rw [decFeed_cons, decByte_start P hesc, hfeed]
  rfl

/-- The wire form of the two checksum bytes makes the decoder emit what it has received (R162, R163, R166). -/
theorem decFeed_checksum (hesc : d.esc = false) (hst : d.dstate = .awaitingCrc0) :
    decFeed P ([hiByte (ckFinish d.ck).crc, loByte (ckFinish d.ck).crc].flatMap escByte) d =
      ({ d with rxcrcHi := hiByte (ckFinish d.ck).crc, ck := ckFinish d.ck, dstate := .done }, [d.datagram], []) := by
  have hhi : dispatch P (hiByte (ckFinish d.ck).crc) d =
      quietly { d with rxcrcHi := hiByte (ckFinish d.ck).crc, dstate := .awaitingCrc1 } := by
    simp only [dispatch, hst, onCrc0]
  rw [List.flatMap_cons, List.flatMap_singleton, decFeed_escByte_quietly hesc hhi,
    decFeed_escByte P _ (d := { d with rxcrcHi := hiByte (ckFinish d.ck).crc, dstate := .awaitingCrc1 }) hesc]
  simp only [dispatch, onCrc1, join16_hiByte_loByte, if_true]
  rfl

/-- Fed the frame of a valid Datagram, a decoder with no escape pending emits that Datagram (41_encoder.md R131). -/
theorem decFeed_frame (hP : P.escapeCrc = true) (hv : validDatagram P dg = true) (hesc : d.esc = false) :
    ∃ e : Dec, decFeed P (frame P dg) d = (e, [dg], (resync d).event.toList) ∧ e.dstate = .done ∧ e.esc = false := by
  obtain ⟨e, heesc, hst, hdg, hck, hfeed⟩ := decFeed_frame_body hv hesc
  have h := hfeed ([hiByte (ckFinish e.ck).crc, loByte (ckFinish e.ck).crc].flatMap escByte)
  rw [decFeed_checksum heesc hst, List.append_nil, ← List.flatMap_append, hdg, hck, ← frameCk,
    ← frame_of_escapeCrc hP] at h
  exact ⟨_, h, rfl, heesc⟩

end Sys2Proof.Machine

/-! ## The encoder looped into the decoder -/

namespace Sys2Proof.Machine

/-- LOOP.ENC_TO_DEC on the machine (30_encoding.md R97): the queue goes out byte by byte, and each byte that goes out is
fed to the decoder. -/
theorem runOps_encToDec (q : List Byte) (s : State) (h : s.enc.EQ = q) :
    ∃ v, runOps (q.flatMap fun b => [.encEmit, .decByte b]) s = .next ({ s with
      enc := { s.enc with EQ := [] }, sent := s.sent ++ q
      dec := (decFeed Config.params q s.dec).1, dgValid := v
      emitted := s.emitted ++ (decFeed Config.params q s.dec).2.1
      events := s.events ++ (decFeed Config.params q s.dec).2.2 }, []) := by
  induction q generalizing s with
  | nil =>
    have henc : ({ s.enc with EQ := [] } : Enc) = s.enc := by rw [← h]
    exact ⟨s.dgValid, by rw [henc]; simp⟩
  | cons b q ih =>
    obtain ⟨v, hv⟩ := ih ((s.emitByte b q).applyDec (decByte Config.params b s.dec)) rfl
    refine ⟨v, ?_⟩
    rw [List.flatMap_cons, List.cons_append, List.cons_append, List.nil_append,
      runOps_cons_next (held_encEmit_cons h) (exec_encEmit_cons h),
      runOps_cons_next (held_decByte b _) (exec_decByte b _), State.emitByte_dec, hv]
    simp [decFeed_cons, State.applyDec, State.emitByte]

theorem runInstrs_encToDec (s : State) :
    ∃ v, runInstrs (Pseudo.expand .loopEncToDec s) s = .next { s with
      enc := { s.enc with EQ := [] }, sent := s.sent ++ s.enc.EQ
      dec := (decFeed Config.params s.enc.EQ s.dec).1, dgValid := v
      emitted := s.emitted ++ (decFeed Config.params s.enc.EQ s.dec).2.1
      events := s.events ++ (decFeed Config.params s.enc.EQ s.dec).2.2 } := by
  obtain ⟨v, hv⟩ := runOps_encToDec s.enc.EQ s rfl
  exact ⟨v, by rw [Pseudo.expand, runInstrs, hv, leaveWaiting, State.wait_nil]⟩

/-- Settles O43: the loop feeds the decoder the frame that ENC.BUILD has put in the queue. -/
theorem loopbackEmitsWhatWasBuilt : Obligations.LoopbackEmitsWhatWasBuilt := by
  intro dg s t hv hesc hq h
  obtain rfl := exec_encBuild_buildRequest hv hq h
  obtain ⟨e, hfeed, hst, he⟩ := decFeed_frame (P := Config.params) rfl hv hesc
  obtain ⟨v, hrun⟩ := runInstrs_encToDec (s.setEnc { ck := frameCk dg, EQ := frame Config.params dg })
  simp only [State.setEnc_enc, State.setEnc_dec, hfeed] at hrun
  exact ⟨_, hrun, rfl, rfl, rfl, hst, he⟩

end Sys2Proof.Machine

/-! ## The checksum's arithmetic over GF(2)

A bit step is a remainder step of the generator on the accumulator with the data bit added at its top
(`gfShift_xor_eq_crcBit`); that a byte is eight of them, the linearity and the injectivity follow from `gfShift`'s
(40_checksum.md R107). -/

namespace Sys2Proof.Machine

/-- What a step adds to the shifted accumulator: the generator when the top bit went out set. -/
def polyIf (t : Bool) : Word16 := if t then Config.POLY else 0

theorem polyIf_xor (s t : Bool) : polyIf (s ^^ t) = polyIf s ^^^ polyIf t := by cases s <;> cases t <;> rfl

theorem gfShift_eq_polyIf (c : Word16) : gfShift c = (c <<< 1) ^^^ polyIf (c.getLsbD 15) := by
  rw [gfShift, polyIf]
  split
  · rfl
  · exact BitVec.xor_zero.symm

theorem crcBit_eq_polyIf (c : Word16) (bit : Bool) : crcBit c bit = (c <<< 1) ^^^ polyIf (c.getLsbD 15 ^^ bit) := by
  rw [crcBit, polyIf]
  split
  · rfl
  · exact BitVec.xor_zero.symm

/-- The remainder step is linear. -/
theorem gfShift_xor (c d : Word16) : gfShift (c ^^^ d) = gfShift c ^^^ gfShift d := by
  simp only [gfShift_eq_polyIf, BitVec.shiftLeft_xor_distrib, BitVec.getLsbD_xor, polyIf_xor]
  ac_rfl

theorem gfShift_iterate_xor (n : Nat) (c d : Word16) : gfShift^[n] (c ^^^ d) = gfShift^[n] c ^^^ gfShift^[n] d := by
  induction n generalizing c d with
  | zero => rfl
  | succ n ih => simp only [Function.iterate_succ_apply, gfShift_xor, ih]

/-- The generator has the term 1, so a step's lowest bit is the bit shifted out. -/
theorem gfShift_getLsbD_zero (c : Word16) : (gfShift c).getLsbD 0 = c.getLsbD 15 := by
  rw [gfShift_eq_polyIf, BitVec.getLsbD_xor]
  cases c.getLsbD 15 <;> simp [polyIf, Config.POLY]

/-- The remainder step loses no accumulator value. -/
theorem gfShift_injective : Function.Injective gfShift := by
  intro c d h
  have htop : c.getLsbD 15 = d.getLsbD 15 := by rw [← gfShift_getLsbD_zero, h, gfShift_getLsbD_zero]
  have hshift : c <<< 1 = d <<< 1 := by
    rw [gfShift_eq_polyIf, gfShift_eq_polyIf, htop] at h
    exact (BitVec.xor_left_inj _).mp h
  refine BitVec.eq_of_getLsbD_eq fun i hi => ?_
  rcases Nat.lt_or_eq_of_le (Nat.le_of_lt_succ hi) with hlt | rfl
  · have hbit := congrArg (fun w : Word16 => w.getLsbD (i + 1)) hshift
    simpa [hi, Nat.succ_lt_succ hlt] using hbit
  · exact htop

/-- A remainder step of `c` with the word `w` added is the bit step of `c` by `w`'s top bit, with the rest of `w` moved
up. -/
theorem gfShift_xor_eq_crcBit (c w : Word16) : gfShift (c ^^^ w) = crcBit c (w.getLsbD 15) ^^^ (w <<< 1) := by
  rw [gfShift_eq_polyIf, crcBit_eq_polyIf, BitVec.shiftLeft_xor_distrib, BitVec.getLsbD_xor]
  ac_rfl

/-- `n` remainder steps take in the `n` top bits of the added word one by one. -/
theorem gfShift_iterate_xor_eq_foldl (n : Nat) (c w : Word16) :
    gfShift^[n] (c ^^^ w) = ((List.range n).map fun i => (w <<< i).getLsbD 15).foldl crcBit c ^^^ (w <<< n) := by
  induction n with
  | zero => simp
  | succ n ih =>
    rw [Function.iterate_succ_apply', ih, gfShift_xor_eq_crcBit, List.range_succ, List.map_append, List.foldl_append,
      BitVec.shiftLeft_add]
    rfl

/-- The bits of a byte that stands in the accumulator's high half. -/
theorem getLsbD_append_zero (b : Byte) (i : Nat) :
    (b ++ (0 : Byte)).getLsbD i = (decide (8 ≤ i) && b.getLsbD (i - 8)) := by
  rw [BitVec.getLsbD_append]
  split
  · next h => simp [Nat.not_le_of_lt h]
  · next h => simp [Nat.le_of_not_lt h]

/-- A byte in the accumulator's high half goes out at the top most significant bit first. -/
theorem bitsMsbFirst_eq_map (b : Byte) :
    bitsMsbFirst b = (List.range 8).map fun i => ((b ++ (0 : Byte)) <<< i).getLsbD 15 := by
  simp only [BitVec.getLsbD_shiftLeft, getLsbD_append_zero]
  rfl

theorem crcByte_eq_gfShift (c : Word16) (b : Byte) : crcByte c b = gfShift^[8] (c ^^^ (b ++ (0 : Byte))) := by
  have hout : (b ++ (0 : Byte)) <<< 8 = (0 : Word16) := by
    refine BitVec.eq_of_getLsbD_eq fun i hi => ?_
    have hlow : ¬ 8 ≤ i - 8 := by omega
    rw [BitVec.getLsbD_shiftLeft, getLsbD_append_zero, decide_eq_false hlow]
    simp
  rw [gfShift_iterate_xor_eq_foldl, hout, ← bitsMsbFirst_eq_map, crcByte]
  exact BitVec.xor_zero.symm

/-- Settles O11. -/
theorem crcByteIsEightRemainderSteps : Obligations.CrcByteIsEightRemainderSteps := crcByte_eq_gfShift

theorem crcByte_xor (c d : Word16) (a b : Byte) : crcByte (c ^^^ d) (a ^^^ b) = crcByte c a ^^^ crcByte d b := by
  have hbytes : (a ^^^ b) ++ (0 : Byte) = (a ++ (0 : Byte)) ^^^ (b ++ (0 : Byte)) :=
    (BitVec.xor_append (y₁ := 0) (y₂ := 0)).symm
  simp only [crcByte_eq_gfShift, hbytes, ← gfShift_iterate_xor]
  ac_rfl

theorem crcByte_injective (b : Byte) : Function.Injective fun c => crcByte c b := by
  intro c d h
  simp only [crcByte_eq_gfShift] at h
  exact (BitVec.xor_left_inj _).mp (gfShift_injective.iterate 8 h)

/-- The checksum of a sum is the sum of the checksums; the parity flags have no part in it. -/
theorem ckFold_xor {bs cs : List Byte} (h : bs.length = cs.length) {K L M : Ck} (hM : M.crc = K.crc ^^^ L.crc) :
    (ckFold M (List.zipWith (· ^^^ ·) bs cs)).crc = (ckFold K bs).crc ^^^ (ckFold L cs).crc := by
  induction bs generalizing cs K L M with
  | nil =>
    obtain rfl := List.eq_nil_of_length_eq_zero h.symm
    exact hM
  | cons b bs ih =>
    obtain ⟨c, cs, rfl⟩ := List.exists_cons_of_length_eq_add_one h.symm
    exact ih (Nat.succ.inj h) (by simp only [ckUpdate_crc, hM, crcByte_xor])

/-- No two accumulators have one checksum over the same bytes. -/
theorem ckFold_crc_injective {K L : Ck} (bs : List Byte) (h : (ckFold K bs).crc = (ckFold L bs).crc) :
    K.crc = L.crc := by
  induction bs generalizing K L with
  | nil => exact h
  | cons b bs ih => exact crcByte_injective b (ih h)

/-- Settles O12, by induction on the bytes. -/
theorem crcIsLinearAndInjective : Obligations.CrcIsLinearAndInjective :=
  ⟨fun _ _ _ _ h => ckFold_xor h rfl, fun _ _ bs h => ckFold_crc_injective bs h⟩

end Sys2Proof.Machine

/-! ## The checksum unit's operations -/

namespace Sys2Proof.Machine

/-- Settles O10: the loop over the bit numbers is the fold over the bits themselves. -/
theorem ckUpdateIsTheBitLoop : Obligations.CkUpdateIsTheBitLoop := by
  refine ⟨fun K b => ?_, by decide⟩
  have hbits : bitsMsbFirst b = [7, 6, 5, 4, 3, 2, 1, 0].map b.getLsbD := rfl
  rw [ckUpdate, crcByte, hbits, List.foldl_map, parAfterUpdate, Bool.xor_true]
  rfl

/-- A row of R91 without a byte operand has one word; the others with its opcode are reserved (30_encoding.md R92). -/
theorem wordWithoutOperand_of_mem {o : Byte} {i : Instr} (h : ∀ port, (o, i) ∈ fixedRows port) :
    WordWithoutOperand o i := by
  intro port
  have hrow : ∀ imm8, decode (.op (opWord o imm8) port) = fixedRow (opWord o imm8) i := fun imm8 =>
    decodeOp_fixed (by rw [opcodeOf_opWord]; exact h port)
  refine ⟨by rw [hrow, fixedRow_zero i (imm8Of_opWord o _)], fun imm8 hne => ?_⟩
  rw [hrow, fixedRow_nonzero i (by rwa [imm8Of_opWord])]

/-- Settles O13. -/
theorem ckResetRule : Obligations.CkResetRule := ⟨wordWithoutOperand_of_mem fun _ => by simp [fixedRows], exec_ckReset⟩

/-- Settles O14. -/
theorem ckUpdateRule : Obligations.CkUpdateRule := by
  refine ⟨fun b port => ?_, exec_ckUpdate, fun s hs => ?_⟩
  · rw [decode, decodeOp_ckUpdate port (opcodeOf_opWord _ b), imm8Of_opWord]
  · have hexample : ckUpdate ⟨0xFFFF, false⟩ 0x2B = ⟨0x74F9, true⟩ := by decide
    rw [exec_ckUpdate, hs, hexample]
    rfl

/-- CK.FINISH twice returns one value twice, since a finished checksum unit pads nothing (40_checksum.md R109). -/
theorem runInstrs_ckFinish_ckFinish (s : State) :
    runInstrs [.ckFinish, .ckFinish] s = .next ((s.returnCk (ckFinish s.cks)).returnCk (ckFinish s.cks)) := by
  rw [runInstrs_cons_next (held_ckFinish s) (exec_ckFinish s), runInstrs_singleton (held_ckFinish _), exec_ckFinish,
    State.returnCk_cks, ckFinish_ckFinish]

/-- Settles O15. The example is CK.CRC of the one byte 0x01. -/
theorem ckFinishRule : Obligations.CkFinishRule := by
  refine ⟨wordWithoutOperand_of_mem fun _ => by simp [fixedRows], fun s hodd => ?_, fun s heven => ?_, fun s => ?_,
    fun s => ?_⟩
  · rw [exec_ckFinish, ckFinish_odd hodd]
    rfl
  · rw [exec_ckFinish, ckFinish_even heven]
    rfl
  · have hpar : ckFinish s.cks = ⟨(ckFinish s.cks).crc, false⟩ := by rw [← ckFinish_par s.cks]
    exact ⟨(ckFinish s.cks).crc, _, runInstrs_ckFinish_ckFinish s, by simp, hpar⟩
  · have hone : ckFold ckReset [0x01] = ⟨0xF1D1, true⟩ := by decide
    have hexample : ckFinish ⟨0xF1D1, true⟩ = ⟨0x2E3E, false⟩ := by decide
    have hrun := runInstrs_ckCrc [0x01] s
    rw [hone, hexample] at hrun
    exact ⟨_, hrun, rfl, rfl⟩

end Sys2Proof.Machine

/-! ## The round trip

The last wire byte of a frame is the low checksum byte itself, with or without an ESC before it; up to that byte the
decoder has emitted nothing, and that byte makes it emit (41_encoder.md R131). -/

namespace Sys2Proof.Machine

variable {P : Config.Params} {dg : Datagram} {d : Dec}

/-- A resynchronization records the frame it abandons, if there is one (R151; 60_exceptions.md R305). -/
theorem resync_event_toList (d : Dec) :
    (resync d).event.toList =
      if d.dstate ≠ .awaitingStart ∧ d.dstate ≠ .done then [.frameAbandoned d.dstate] else [] := by
  simp only [resync]
  cases d.dstate <;> rfl

/-- The wire form of a byte ends in the byte itself, which the handler then gets; what stands before it shows nothing
(30_encoding.md R82; 42_decoder.md R152). -/
theorem exists_escByte_eq_concat (P : Config.Params) (b : Byte) (hesc : d.esc = false) :
    ∃ pre c, escByte b = pre ++ [b] ∧ decFeed P pre d = (c, [], []) ∧ decByte P b c = dispatch P b d := by
  have hd : { d with esc := false } = d := by rw [← hesc]
  rcases escByte_cases b with ⟨h, -⟩ | ⟨h, hs, he⟩
  · refine ⟨[Config.ESC], { d with esc := true }, h, ?_, ?_⟩
    · rw [decFeed_cons, decByte_esc P hesc]
      rfl
    · rw [decByte_literal P (isLiteral_escaped b)]
      exact congrArg (dispatch P b) hd
  · exact ⟨[], d, h, rfl, by rw [decByte_literal P (isLiteral_of_ne hs he _), hd]⟩

/-- A low byte that completes the received checksum to the one computed (R163, R166). -/
theorem onCrc1_of_eq {b : Byte} (h : join16 d.rxcrcHi b = (ckFinish d.ck).crc) :
    onCrc1 b d =
      { dec := { d with ck := ckFinish d.ck, dstate := .done }, emit := some d.datagram, event := none } := if_pos h

/-- A frame's last byte is the one that makes the decoder emit, and the Datagram stays in the working registers. -/
theorem decFeed_frame_concat (hP : P.escapeCrc = true) (hv : validDatagram P dg = true) (hesc : d.esc = false) :
    ∃ (bs : List Byte) (b : Byte) (c e : Dec), frame P dg = bs ++ [b] ∧
      decFeed P bs d = (c, [], (resync d).event.toList) ∧ decByte P b c = ⟨e, some dg, none⟩ ∧
      e.dstate = .done ∧ e.esc = false ∧ e.datagram = dg := by
  obtain ⟨a, haesc, hst, hdg, hck, hfeed⟩ := decFeed_frame_body hv hesc
  let hi := hiByte (frameCk dg).crc
  let lo := loByte (frameCk dg).crc
  have hcrc : (ckFinish a.ck).crc = (frameCk dg).crc := by rw [hck, frameCk]
  have hhi : dispatch P hi a = quietly { a with rxcrcHi := hi, dstate := .awaitingCrc1 } := by
    simp only [dispatch, hst, onCrc0]
  obtain ⟨pre, c, hlo, hpre, hlast⟩ := exists_escByte_eq_concat P lo
    (d := { a with rxcrcHi := hi, dstate := .awaitingCrc1 }) haesc
  refine ⟨Config.START :: ((logicalBytes dg).flatMap escByte ++ (escByte hi ++ pre)), lo, c,
    { a with rxcrcHi := hi, ck := ckFinish a.ck, dstate := .done }, ?_, ?_, ?_, rfl, haesc, hdg⟩
  · simp [frame_of_escapeCrc hP, hlo, hi, lo]
  · rw [hfeed, decFeed_escByte_quietly haesc hhi, hpre, List.append_nil]
  · rw [hlast, ← hdg]
    exact onCrc1_of_eq (by simp [hcrc, hi, lo])

/-- Settles O41. -/
theorem roundTrip : Obligations.RoundTrip := by
  intro P dg d hP hv hesc
  obtain ⟨bs, b, c, e, hframe, hinit, hlast, hst, he, -⟩ := decFeed_frame_concat hP hv hesc
  refine ⟨bs, b, e, hframe, by rw [hinit], ?_, hst, he⟩
  rw [hframe, decFeed_append, hinit, decFeed_cons, hlast, resync_event_toList]
  simp

/-- Settles O42: DEC.FEED of the frame's bytes but the last shows nothing but the abandoned frame, and the last DEC.BYTE
emits. -/
theorem feedingAFrameEmitsItsDatagram : Obligations.FeedingAFrameEmitsItsDatagram := by
  intro dg s hv hesc
  obtain ⟨bs, b, c, e, hframe, hinit, hlast, hst, he, hdg⟩ :=
    decFeed_frame_concat (P := Config.params) rfl hv hesc
  obtain ⟨v, hrun⟩ := runOps_decBytes bs s
  rw [hinit, resync_event_toList] at hrun
  have hfinal := runInstrs_append_next (js := [.decByte b]) hrun
  rw [runInstrs_singleton (held_decByte b _), exec_decByte, hlast] at hfinal
  have hexpand : Pseudo.expand (.decFeed (frame Config.params dg)) s = bs.map .decByte ++ [.decByte b] := by
    simp [Pseudo.expand, hframe]
  rw [hexpand]
  refine ⟨_, hfinal, by simp, rfl, ?_, hst, he, by simp, rfl, rfl, rfl, rfl, rfl, rfl, rfl, rfl⟩
  rw [dgOut_eq_datagram]
  exact hdg

end Sys2Proof.Machine

/-! ## The frame: its pseudocode and its length -/

namespace Sys2Proof.Machine

/-- A sequence of `put`s appends the bytes' wire form and folds the bytes (41_encoder.md R121). -/
theorem foldl_framePut (bs q : List Byte) (K : Ck) :
    bs.foldl framePut (q, K) = (q ++ bs.flatMap escByte, ckFold K bs) := by
  induction bs generalizing q K with
  | nil => simp
  | cons b bs ih =>
    rw [List.foldl_cons, framePut, ih, List.flatMap_cons, List.append_assoc]
    rfl

/-- The rule's pseudocode puts the logical bytes one after another (30_encoding.md R80; R121). -/
theorem frameByPut_eq (P : Config.Params) (dg : Datagram) : frameByPut P dg = (frame P dg, frameCk dg) := by
  have hput : frameByPut P dg =
      (let qk := (logicalBytes dg).foldl framePut ([Config.START], ckReset)
       let K := ckFinish qk.2
       (qk.1 ++ escCrcByte P (hiByte K.crc) ++ escCrcByte P (loByte K.crc), K)) := rfl
  simp only [hput, foldl_framePut, frame, frameCk, List.cons_append, List.nil_append]

/-- Settles O17. -/
theorem frameIsThePutSequence : Obligations.FrameIsThePutSequence :=
  fun P dg => ⟨frameByPut_eq P dg, ckFinish_par _⟩

theorem markers_cons (b : Byte) (bs : List Byte) : markers (b :: bs) = markers [b] + markers bs :=
  List.countP_append (l₁ := [b])

/-- A byte's wire form is one byte longer than the byte exactly when the byte is a marker (30_encoding.md R82). -/
theorem escByte_length (b : Byte) : (escByte b).length = 1 + markers [b] := by
  rcases escByte_cases b with ⟨h, hm⟩ | ⟨h, hs, he⟩
  · simp [h, markers, hm]
  · simp [h, markers, hs, he]

theorem flatMap_escByte_length (bs : List Byte) : (bs.flatMap escByte).length = bs.length + markers bs := by
  induction bs with
  | nil => rfl
  | cons b bs ih =>
    rw [List.flatMap_cons, List.length_append, ih, escByte_length, markers_cons b bs, List.length_cons]
    omega

/-- A checksum byte is escaped only with ESCAPE_CRC true (30_encoding.md R84). -/
theorem escCrcByte_length (P : Config.Params) (b : Byte) :
    (escCrcByte P b).length = 1 + if P.escapeCrc = true then markers [b] else 0 := by
  rw [escCrcByte]
  split
  · exact escByte_length b
  · rfl

/-- The length of a frame, whatever its Datagram (41_encoder.md R130). -/
theorem frame_length (P : Config.Params) (dg : Datagram) :
    (frame P dg).length = 9 + dg.payload.length + (markers (logicalBytes dg) +
      if P.escapeCrc = true then markers [hiByte (frameCk dg).crc, loByte (frameCk dg).crc] else 0) := by
  rw [frame, List.length_cons, List.length_append, List.length_append, flatMap_escByte_length, logicalBytes_length,
    escCrcByte_length, escCrcByte_length, markers_cons (hiByte _) [loByte _]]
  split <;> omega

/-- Settles O24. -/
theorem frameLength : Obligations.FrameLength := by
  intro P dg hv
  obtain ⟨-, hmax⟩ := (validDatagram_iff P dg).mp hv
  have hlen := frame_length P dg
  exact ⟨hlen, by omega, frame_length_le P hmax⟩

end Sys2Proof.Machine

/-! ## The encoder's operations -/

namespace Sys2Proof.Machine

variable {r : Request} {s : State}

/-- ENC.BUILD on an idle encoder, by the rule's pseudocode (41_encoder.md R121, R122). -/
theorem exec_encBuild_idle_byPut (hv : validRequest Config.params r = true) (hq : s.enc.EQ = []) :
    exec (.encBuild r) s = .next { s with
      enc := { ck := (frameByPut Config.params ⟨r.cmd, r.id, r.data⟩).2
               EQ := (frameByPut Config.params ⟨r.cmd, r.id, r.data⟩).1 } } := by
  rw [exec_encBuild_idle hv hq, frameByPut_eq]
  rfl

theorem reqReady_of_empty (hq : s.enc.EQ = []) : reqReady s = true := by simp [reqReady, hq]

/-- The ENC.EMIT of the last byte, ENC.RESET and RESET leave the queue empty (R123). -/
theorem exec_empties_queue {i : Instr}
    (hi : (i = .encEmit ∧ s.enc.EQ.length = 1) ∨ i = .encReset ∨ i = .reset) :
    ∃ t, exec i s = .next t ∧ t.enc.EQ = [] := by
  rcases hi with ⟨rfl, hlen⟩ | rfl | rfl
  · obtain ⟨b, hq⟩ := List.length_eq_one_iff.mp hlen
    exact ⟨_, exec_encEmit_cons hq, rfl⟩
  · exact ⟨_, exec_encReset s, rfl⟩
  · exact ⟨_, exec_reset s, rfl⟩

/-- A valid request presented before the queue is drained: it waits while the old bytes go out, and then it is built
(R123; 95_test_vectors.md V37). -/
theorem runInstrs_encBuild_encEmits (hv : validRequest Config.params r = true) (q : List Byte) (s : State)
    (hq : s.enc.EQ = q) :
    runInstrs (.encBuild r :: q.map fun _ => .encEmit) s = .next { s with
      enc := { ck := (frameByPut Config.params ⟨r.cmd, r.id, r.data⟩).2
               EQ := (frameByPut Config.params ⟨r.cmd, r.id, r.data⟩).1 }
      sent := s.sent ++ q } := by
  induction q generalizing s with
  | nil =>
    rw [List.map_nil, runInstrs_singleton (held_encBuild_idle hq), exec_encBuild_idle_byPut hv hq, List.append_nil]
  | cons b q ih =>
    have hwait : ∀ w ∈ [Instr.encBuild r], held w s = true := by simp [held, hv, hq]
    have hstep := runInstrs_held_next hwait (held_encEmit_cons hq) (exec_encEmit_cons hq) (q.map fun _ => .encEmit)
    rw [List.singleton_append, List.singleton_append] at hstep
    rw [List.map_cons, hstep, ih (s.emitByte b q) rfl]
    simp [State.emitByte]

/-- Settles O19. -/
theorem buildWaitsWhileBusy : Obligations.BuildWaitsWhileBusy := by
  refine ⟨fun r s hv hq => ?_, fun r s hq => ⟨reqReady_of_empty hq, held_encBuild_idle hq⟩, fun r i s hv hi => ?_,
    fun r s hv _ => runInstrs_encBuild_encEmits hv s.enc.EQ s rfl⟩
  · exact ⟨exec_encBuild_busy hv hq, by simp [reqReady, hq], by simp [held, hv, hq]⟩
  · obtain ⟨t, ht, hq⟩ := exec_empties_queue hi
    exact ⟨t, ht, reqReady_of_empty hq, exec_encBuild_idle_byPut hv hq⟩

/-- Settles O18. -/
theorem buildLoadsTheFrame : Obligations.BuildLoadsTheFrame := by
  refine ⟨fun port => ?_, fun r s hv hq => exec_encBuild_idle_byPut hv hq, fun s hq => ?_⟩
  · have hrow : (opcodeOf 0x2100, Instr.encBuild port.request) ∈ fixedRows port := by simp [fixedRows, opcodeOf]
    exact (decodeOp_fixed hrow).trans (fixedRow_zero _ rfl)
  · have hvalid : validRequest Config.params ⟨0x01, 0x400F015B, 0, []⟩ = true := by decide
    have hexample : frameByPut Config.params ⟨0x01, 0x400F015B, []⟩ =
        ([0x2B, 0x01, 0x04, 0x40, 0x0F, 0x01, 0x5B, 0x58, 0xB4], ⟨0x58B4, false⟩) := by decide +kernel
    rw [exec_encBuild_idle_byPut hvalid hq, hexample]

/-- ENC.BUILD is refused exactly when its request is invalid, busy or not (R124). -/
theorem exec_encBuild_refused_iff (r : Request) (s : State) :
    exec (.encBuild r) s = .refused .invalidRequest ↔ validRequest Config.params r = false := by
  refine ⟨fun h => ?_, exec_encBuild_invalid s⟩
  rcases exec_next_or_invalid (.encBuild r) s with ⟨t, ht⟩ | ⟨q, hq, hinvalid, -⟩
  · rw [ht] at h
    cases h
  · cases hq
    exact hinvalid

/-- Settles O20. -/
theorem invalidRequestsAreRefused : Obligations.InvalidRequestsAreRefused := by
  intro r s
  rw [exec_encBuild_refused_iff, ← Bool.not_eq_true, validRequest_iff, definedCmd_iff, not_and_or, Nat.not_le]
  rfl

/-- Settles O21. -/
theorem emitPutsOutTheHead : Obligations.EmitPutsOutTheHead := by
  refine ⟨wordWithoutOperand_of_mem fun _ => by simp [fixedRows], fun s b q hq => ?_, fun s t b hq h => ?_⟩
  · exact ⟨exec_encEmit_cons hq, by simp [outValid, hq], by simp [outByte, hq]⟩
  · rw [exec_encEmit_cons hq] at h
    cases h
    rfl

/-- Settles O22. A frame begins with START, so a BUILD leaves no empty queue. -/
theorem emitWaitsWhileEmpty : Obligations.EmitWaitsWhileEmpty := by
  refine ⟨fun s hq => ⟨exec_encEmit_empty hq, by simp [outValid, hq], by simp [held, hq]⟩, fun s t r hv hq h => ?_⟩
  rw [exec_encBuild_idle hv hq] at h
  cases h
  exact ⟨rfl, rfl⟩

/-- Settles O23. -/
theorem encResetRule : Obligations.EncResetRule :=
  ⟨wordWithoutOperand_of_mem fun _ => by simp [fixedRows], exec_encReset⟩

end Sys2Proof.Machine

/-! ## DEC.BYTE on the machine

A step that shows nothing leaves the state as it is but for the decoder and the strobe; a drop records its event as
well. Each rule of the decoder is one of these on the handler of its state (42_decoder.md R150 to R164). -/

namespace Sys2Proof.Machine

variable {P : Config.Params} {b : Byte} {d : Dec} {s : State}

theorem State.applyDec_quietly (s : State) (d : Dec) :
    s.applyDec (quietly d) = { s with dec := d, dgValid := false } := by
  simp [State.applyDec]

theorem State.applyDec_drop (s : State) (d : Dec) (e : Event) :
    s.applyDec (drop d e) =
      { s with dec := { d with dstate := .awaitingStart }, dgValid := false, events := s.events ++ [e] } := by
  simp [State.applyDec]

theorem State.applyDec_emission (s : State) (d : Dec) (dg : Datagram) :
    s.applyDec { dec := d, emit := some dg, event := none } =
      { s with dec := d, dgValid := true, emitted := s.emitted ++ [dg] } := by
  simp [State.applyDec]

/-- A literal byte is the handler's, with the escape used up (R153). -/
theorem exec_decByte_literal (hl : isLiteral b s.dec.esc = true) :
    exec (.decByte b) s = .next (s.applyDec (dispatch Config.params b { s.dec with esc := false })) := by
  rw [exec_decByte, decByte_literal _ hl]

theorem exec_decByte_quietly (hl : isLiteral b s.dec.esc = true)
    (h : dispatch Config.params b { s.dec with esc := false } = quietly d) :
    exec (.decByte b) s = .next { s with dec := d, dgValid := false } := by
  rw [exec_decByte_literal hl, h, State.applyDec_quietly]

theorem exec_decByte_drop {e : Event} (hl : isLiteral b s.dec.esc = true)
    (h : dispatch Config.params b { s.dec with esc := false } = drop d e) :
    exec (.decByte b) s = .next
      { s with dec := { d with dstate := .awaitingStart }, dgValid := false, events := s.events ++ [e] } := by
  rw [exec_decByte_literal hl, h, State.applyDec_drop]

theorem exec_decByte_emission {dg : Datagram} (hl : isLiteral b s.dec.esc = true)
    (h : dispatch Config.params b { s.dec with esc := false } = { dec := d, emit := some dg, event := none }) :
    exec (.decByte b) s = .next { s with dec := d, dgValid := true, emitted := s.emitted ++ [dg] } := by
  rw [exec_decByte_literal hl, h, State.applyDec_emission]

/-! ### The handler of each state -/

theorem dispatch_ignored (h : d.dstate = .awaitingStart ∨ d.dstate = .done) : dispatch P b d = quietly d := by
  rcases h with h | h <;> simp only [dispatch, h]

theorem dispatch_awaitingCmd (h : d.dstate = .awaitingCmd) : dispatch P b d = onCmd P b d := by
  simp only [dispatch, h]

theorem dispatch_awaitingLen (h : d.dstate = .awaitingLen) : dispatch P b d = onLen P b d := by
  simp only [dispatch, h]

theorem dispatch_awaitingId0 (h : d.dstate = .awaitingId0) : dispatch P b d = onId0 b d := by
  simp only [dispatch, h]

theorem dispatch_awaitingId1 (h : d.dstate = .awaitingId1) : dispatch P b d = onId1 b d := by
  simp only [dispatch, h]

theorem dispatch_awaitingId2 (h : d.dstate = .awaitingId2) : dispatch P b d = onId2 b d := by
  simp only [dispatch, h]

theorem dispatch_awaitingId3 (h : d.dstate = .awaitingId3) : dispatch P b d = onId3 b d := by
  simp only [dispatch, h]

theorem dispatch_awaitingData (h : d.dstate = .awaitingData) : dispatch P b d = onData b d := by
  simp only [dispatch, h]

theorem dispatch_awaitingCrc0 (h : d.dstate = .awaitingCrc0) : dispatch P b d = onCrc0 b d := by
  simp only [dispatch, h]

theorem dispatch_awaitingCrc1 (h : d.dstate = .awaitingCrc1) : dispatch P b d = onCrc1 b d := by
  simp only [dispatch, h]

/-! ### The handlers that test their byte -/

/-- The codes that the decoder accepts with the spec's parameters (30_encoding.md R88). -/
theorem accepted_params_iff (c : Byte) : accepted Config.params c = true ↔ c.toNat ≤ 8 ∨ c = 0x3C := by
  simp [accepted_iff, Config.params]

theorem onCmd_of_accepted (d : Dec) (h : accepted P b = true) :
    onCmd P b d = quietly { d with cmd := b, ck := ckUpdate ckReset b, dstate := .awaitingLen } := if_pos h

theorem onCmd_of_not_accepted (d : Dec) (h : ¬ accepted P b = true) : onCmd P b d = drop d (.badCmd b) := if_neg h

theorem onLen_of_short (d : Dec) (h : b.toNat < 4 ∧ P.shortLen = .reject) :
    onLen P b d = drop { d with ck := ckUpdate d.ck b } (.shortLen b) := if_pos h

theorem onLen_of_not_short (d : Dec) (h : ¬ (b.toNat < 4 ∧ P.shortLen = .reject)) :
    onLen P b d = quietly
      { d with ck := ckUpdate d.ck b, len := b, plen := plenOf b, idx := 0, dstate := .awaitingId0 } := if_neg h

theorem onCrc1_of_ne (h : join16 d.rxcrcHi b ≠ (ckFinish d.ck).crc) :
    onCrc1 b d =
      drop { d with ck := ckFinish d.ck } (.crcMismatch (join16 d.rxcrcHi b) (ckFinish d.ck).crc) := if_neg h

end Sys2Proof.Machine

/-! ## What a DEC.BYTE step shows -/

namespace Sys2Proof.Machine

variable {P : Config.Params} {b : Byte} {d : Dec}

/-- A step shows nothing, records one event, or is AwaitingCrc1's that emits and goes to Done (42_decoder.md R166;
60_exceptions.md R312). -/
def DecStep.ShowsFrom (d : Dec) (r : DecStep) : Prop :=
  (r.emit = none ∧ r.event = none) ∨ (r.emit = none ∧ ∃ e, r.event = some e) ∨
  (r.event = none ∧ (∃ dg, r.emit = some dg) ∧ d.dstate = .awaitingCrc1 ∧ r.dec.dstate = .done)

theorem quietly_shows (d e : Dec) : (quietly e).ShowsFrom d := .inl ⟨rfl, rfl⟩

theorem drop_shows (d e : Dec) (ev : Event) : (drop e ev).ShowsFrom d := .inr (.inl ⟨rfl, ev, rfl⟩)

theorem resync_shows (d : Dec) : (resync d).ShowsFrom d := by
  cases h : (resync d).event with
  | none => exact .inl ⟨rfl, h⟩
  | some e => exact .inr (.inl ⟨rfl, e, h⟩)

theorem dispatch_shows (P : Config.Params) (b : Byte) (d : Dec) : (dispatch P b d).ShowsFrom d := by
  cases hd : d.dstate with
  | awaitingCmd =>
    rw [dispatch_awaitingCmd hd]
    by_cases h : accepted P b = true
    · rw [onCmd_of_accepted d h]
      exact quietly_shows d _
    · rw [onCmd_of_not_accepted d h]
      exact drop_shows d _ _
  | awaitingLen =>
    rw [dispatch_awaitingLen hd]
    by_cases h : b.toNat < 4 ∧ P.shortLen = .reject
    · rw [onLen_of_short d h]
      exact drop_shows d _ _
    · rw [onLen_of_not_short d h]
      exact quietly_shows d _
  | awaitingCrc1 =>
    rw [dispatch_awaitingCrc1 hd]
    by_cases h : join16 d.rxcrcHi b = (ckFinish d.ck).crc
    · rw [onCrc1_of_eq h]
      exact .inr (.inr ⟨rfl, ⟨_, rfl⟩, hd, rfl⟩)
    · rw [onCrc1_of_ne h]
      exact drop_shows d _ _
  | _ =>
    simp only [dispatch, hd]
    exact quietly_shows d _

theorem decByte_shows (P : Config.Params) (b : Byte) (d : Dec) : (decByte P b d).ShowsFrom d := by
  rcases decByte_cases P b d with ⟨-, -, h⟩ | ⟨-, -, h⟩ | ⟨-, h⟩ <;> rw [h]
  · exact resync_shows d
  · exact quietly_shows d _
  · exact dispatch_shows P b { d with esc := false }

/-- Settles O28: the frame is `State.applyDec`'s, and what is shown is `decByte_shows`. -/
theorem decByteAlwaysStepsAndTouchesOnlyTheDecoder : Obligations.DecByteAlwaysStepsAndTouchesOnlyTheDecoder := by
  intro b s
  refine ⟨_, exec_decByte b s, rfl, rfl, rfl, rfl, rfl, rfl, rfl, rfl, ?_⟩
  rcases decByte_shows Config.params b s.dec with ⟨hem, hev⟩ | ⟨hem, e, hev⟩ | ⟨hev, ⟨dg, hem⟩, hst, hdone⟩
  · exact .inl (by simp [hem, hev])
  · exact .inr (.inl (by simp [hem, hev]))
  · exact .inr (.inr (by simp [hem, hev, hst, hdone]))

end Sys2Proof.Machine

/-! ## The decoder's transition table -/

namespace Sys2Proof.Machine

variable {b : Byte} {d : Dec}

/-- What a dispatched byte records (42_decoder.md R168; 60_exceptions.md R302 to R304). -/
def literalEvents (b : Byte) (d : Dec) : List Event :=
  if d.dstate = .awaitingCmd ∧ ¬ (b.toNat ≤ 8 ∨ b = 0x3C) then [.badCmd b]
  else if d.dstate = .awaitingLen ∧ b.toNat < 4 then [.shortLen b]
  else if d.dstate = .awaitingCrc1 ∧ d.rxcrcHi ++ b ≠ (ckFinish d.ck).crc then
    [.crcMismatch (d.rxcrcHi ++ b) (ckFinish d.ck).crc]
  else []

/-- The row of the table for a dispatched byte: the next state and what is recorded (R168). -/
theorem dispatch_row (b : Byte) (d : Dec) :
    (dispatch Config.params b d).dec.dstate =
      nextOnLiteral (decide (b.toNat ≤ 8 ∨ b = 0x3C)) (decide (4 ≤ b.toNat)) (decide (d.plen = 0))
        (decide (d.idx + 1 = d.plen)) (decide (d.rxcrcHi ++ b = (ckFinish d.ck).crc)) d.dstate ∧
    (dispatch Config.params b d).event.toList = literalEvents b d := by
  cases hd : d.dstate with
  | awaitingCmd =>
    rw [dispatch_awaitingCmd hd]
    by_cases h : b.toNat ≤ 8 ∨ b = 0x3C
    · rw [onCmd_of_accepted d ((accepted_params_iff b).mpr h), decide_eq_true h, literalEvents,
        if_neg fun ⟨_, hbad⟩ => hbad h]
      simp [nextOnLiteral, hd]
    · rw [onCmd_of_not_accepted d (mt (accepted_params_iff b).mp h), decide_eq_false h, literalEvents, if_pos ⟨hd, h⟩]
      exact ⟨rfl, rfl⟩
  | awaitingLen =>
    rw [dispatch_awaitingLen hd]
    by_cases h : b.toNat < 4
    · rw [onLen_of_short d ⟨h, rfl⟩]
      simp [nextOnLiteral, literalEvents, hd, h]
    · rw [onLen_of_not_short d fun ⟨hshort, _⟩ => h hshort]
      simp [nextOnLiteral, literalEvents, hd, h, Nat.le_of_not_lt h]
  | awaitingCrc1 =>
    rw [dispatch_awaitingCrc1 hd]
    by_cases h : d.rxcrcHi ++ b = (ckFinish d.ck).crc
    · rw [onCrc1_of_eq h]
      simp [nextOnLiteral, literalEvents, hd, h]
    · rw [onCrc1_of_ne h]
      simp [nextOnLiteral, literalEvents, hd, h, join16]
  | _ => simp [dispatch, onId0, onId1, onId2, onId3, onData, onCrc0, nextOnLiteral, literalEvents, hd]

/-- The states with a frame in progress have the codes 1 to 9 (10_state.md R23; 60_exceptions.md R305). -/
theorem resync_event_by_code (d : Dec) :
    (resync d).event.toList =
      if 1 ≤ d.dstate.code.toNat ∧ d.dstate.code.toNat ≤ 9 then [.frameAbandoned d.dstate] else [] := by
  simp only [resync]
  cases d.dstate <;> rfl

theorem DState.code_le (st : DState) : st.code.toNat ≤ 10 := by cases st <;> decide

/-- A byte that is dispatched is no unescaped marker (R150 to R153). -/
theorem not_marker_of_isLiteral {esc : Bool} (h : isLiteral b esc = true) :
    ¬ (b = 0x2B ∧ esc = false) ∧ ¬ (b = 0x2D ∧ esc = false) := by
  constructor <;> rintro ⟨rfl, rfl⟩ <;> cases h

/-- Settles O37: a START, an ESC, or the row of the state for a dispatched byte. -/
theorem transitionTable : Obligations.TransitionTable := by
  refine ⟨fun b s => ⟨_, exec_decByte b s, ?_⟩, fun s => ⟨_, exec_decReset s, rfl⟩, fun s => ⟨_, exec_reset s, rfl⟩,
    DState.code_le⟩
  simp only [State.applyDec_dec, State.applyDec_events]
  rcases decByte_cases Config.params b s.dec with ⟨rfl, he, h⟩ | ⟨rfl, he, h⟩ | ⟨hl, h⟩ <;> rw [h]
  · simp [Config.START, he, resync_event_by_code]
  · simp [Config.ESC, he]
  · obtain ⟨hs, hesc⟩ := not_marker_of_isLiteral hl
    obtain ⟨hst, hev⟩ := dispatch_row b { s.dec with esc := false }
    rw [if_neg hs, if_neg hesc, if_neg hs, if_neg hesc, hst, hev, dispatch_esc]
    exact ⟨rfl, (decide_eq_false hesc).symm, rfl⟩

end Sys2Proof.Machine

/-! ## Resynchronization: garbage between frames -/

namespace Sys2Proof.Machine

/-- Settles O44: garbage that emits nothing adds nothing, and each frame emits its Datagram (41_encoder.md R131). -/
theorem garbageBetweenFramesIsIgnored : Obligations.GarbageBetweenFramesIsIgnored := by
  intro P d1 d2 g1 g2 d hP hv1 hv2 hg1 he1 hg2 he2
  obtain ⟨e1, hf1, -, -⟩ := decFeed_frame hP hv1 he1
  obtain ⟨e2, hf2, -, -⟩ := decFeed_frame hP hv2 he2
  have hfirst : (decFeed P (g1 ++ frame P d1) d).2.1 = [d1] := by rw [decFeed_append, hg1, hf1]; rfl
  rw [List.append_assoc, decFeed_append, decFeed_append, hfirst, hg2, hf2]
  rfl

end Sys2Proof.Machine

/-! ## What is emitted was checked -/

namespace Sys2Proof.Machine

variable {P : Config.Params} {b : Byte} {d : Dec} {dg : Datagram}

theorem onCrc1_emit_checked (h : (onCrc1 b d).emit = some dg) : join16 d.rxcrcHi b = (ckFinish d.ck).crc := by
  by_contra hne
  rw [onCrc1_of_ne hne] at h
  cases h

/-- A Datagram is emitted only with the checksum computed (42_decoder.md R163, R166). -/
theorem decByte_emit_checked (h : (decByte P b d).emit = some dg) : join16 d.rxcrcHi b = (ckFinish d.ck).crc := by
  obtain ⟨hst, -⟩ := decByte_emit h
  rcases decByte_cases P b d with ⟨-, -, hd⟩ | ⟨-, -, hd⟩ | ⟨-, hd⟩ <;> rw [hd] at h
  · cases h
  · cases h
  · rw [dispatch_awaitingCrc1 (d := { d with esc := false }) hst] at h
    exact onCrc1_emit_checked (d := { d with esc := false }) h

/-- A LEN byte that is no less than 4 is the one of a payload of `LEN − 4` bytes (30_encoding.md R85). -/
theorem lenByte_plenOf {len : Byte} (h : 4 ≤ len.toNat) : lenByte (plenOf len).toNat = len := by
  apply BitVec.eq_of_toNat_eq
  rw [lenByte_toNat (plenOf_le len), plenOf_toNat]
  omega

/-- With the payload in, the bytes received are those that the Datagram in the working registers is sent as
(42_decoder.md R165; 30_encoding.md R80). -/
theorem received_eq_logicalBytes (hP : P.shortLen = .reject) (hst : d.dstate = .awaitingCrc1) (hd : d.Inv P) :
    d.received = logicalBytes d.datagram := by
  simp only [Dec.Inv, hst] at hd
  obtain ⟨-, -, ⟨hplen, hlen⟩, hidx⟩ := hd
  have hmax := plenOf_le d.len
  have hcount : d.datagram.payload.length = (plenOf d.len).toNat := by
    simp only [Config.MAX_PAYLOAD] at hmax
    simp [Dec.datagram, hplen, hmax]
  rw [logicalBytes, hcount, lenByte_plenOf (hlen hP)]
  simp only [Dec.received, hst, hidx]
  rfl

/-- Settles O47: the checksum computed is that of the bytes received, which are the emitted Datagram's own. -/
theorem emittedDatagramsPassedTheirChecksum : Obligations.EmittedDatagramsPassedTheirChecksum := by
  intro s t b hs h hne
  cases h
  cases hem : (decByte Config.params b s.dec).emit with
  | none => exact absurd (by simp [hem]) hne
  | some dg =>
    obtain ⟨hacc, hmax⟩ := decByte_emit_good hs.dec hem
    obtain ⟨hst, rfl⟩ := decByte_emit hem
    refine ⟨_, by simp [hem], hacc, hmax, ?_⟩
    have hck := hs.dec
    simp only [Dec.Inv, hst] at hck
    obtain ⟨-, hck, -⟩ := hck
    rw [frameByPut_eq, frameCk, ← received_eq_logicalBytes rfl hst hs.dec, ← hck]
    exact decByte_emit_checked hem

end Sys2Proof.Machine

/-! ## The invariant in reachable states -/

namespace Sys2Proof.Machine

variable {P : Config.Params} {d : Dec} {s t : State}

/-- The host does not touch what the invariant speaks of. -/
theorem State.Inv.host (hs : s.Inv) (inputs : List Input) : State.Inv { s with pending := inputs } :=
  ⟨hs.queue, hs.dec, hs.emitted⟩

/-- The invariant holds in every reachable state (42_decoder.md R172). -/
theorem Reachable.inv (h : Reachable s) : s.Inv := by
  induction h with
  | reset => exact resetMeetsTheInvariant
  | host s inputs _ ih => exact ih.host inputs
  | step s t _ ht ih => exact stepKeepsTheInvariant s t ih ht

theorem Dec.lenGood.plen_le (h : d.lenGood P) : d.plen.toNat ≤ 251 := by
  obtain ⟨hplen, -⟩ := h
  rw [hplen]
  exact plenOf_le d.len

/-- Past its LEN byte a frame has a payload length that fits (10_state.md R27). -/
theorem Dec.Inv.plen_le (h : d.Inv P) (hst : 3 ≤ d.dstate.code.toNat) : d.plen.toNat ≤ 251 := by
  cases hd : d.dstate <;> simp only [Dec.Inv, hd] at h
  case awaitingStart | awaitingCmd | awaitingLen =>
    rw [hd] at hst
    exact absurd hst (by decide)
  all_goals
    obtain ⟨-, -, hlen, -⟩ := h
    exact hlen.plen_le

theorem Dec.Inv.idx_lt (h : d.Inv P) (hst : d.dstate = .awaitingData) : d.idx.toNat < d.plen.toNat := by
  simp only [Dec.Inv, hst] at h
  obtain ⟨-, -, -, hidx⟩ := h
  exact hidx

theorem Dec.Inv.idx_eq (h : d.Inv P) (hst : d.dstate = .awaitingCrc0 ∨ d.dstate = .awaitingCrc1) :
    d.idx = d.plen := by
  rcases hst with hd | hd <;>
  · simp only [Dec.Inv, hd] at h
    obtain ⟨-, -, -, hidx⟩ := h
    exact hidx

/-- While a frame's logical bytes come in, the parity flag is the parity of their number (40_checksum.md R108). -/
theorem Dec.Inv.par_eq (h : d.Inv P) (hst : 2 ≤ d.dstate.code.toNat ∧ d.dstate.code.toNat ≤ 7) :
    d.ck.par = decide (d.received.length % 2 = 1) := by
  have hck : d.ck = ckFold ckReset d.received := by
    cases hd : d.dstate <;> simp only [Dec.Inv, hd] at h
    case awaitingLen =>
      obtain ⟨-, hck⟩ := h
      exact hck
    case awaitingStart | awaitingCmd | done =>
      rw [hd] at hst
      exact absurd hst (by decide)
    all_goals
      obtain ⟨-, hck, -⟩ := h
      exact hck
  rw [hck, ckFold_ckReset_par]

theorem received_length_awaitingData (h : d.Inv P) (hst : d.dstate = .awaitingData) :
    d.received.length = 6 + d.idx.toNat := by
  have hidx := h.idx_lt hst
  have hplen := h.plen_le (by rw [hst]; decide)
  simp [Dec.received, hst, idBytes]
  omega

/-- DEC.BYTE writes `DEC.plen` only with a length that fits (42_decoder.md R156). -/
theorem dispatch_plen (P : Config.Params) (b : Byte) (d : Dec) :
    (dispatch P b d).dec.plen = d.plen ∨ (dispatch P b d).dec.plen.toNat ≤ 251 := by
  cases hd : d.dstate with
  | awaitingCmd =>
    rw [dispatch_awaitingCmd hd, onCmd]
    split <;> exact .inl rfl
  | awaitingLen =>
    rw [dispatch_awaitingLen hd, onLen]
    split
    · exact .inl rfl
    · exact .inr (plenOf_le b)
  | awaitingCrc1 =>
    rw [dispatch_awaitingCrc1 hd, onCrc1]
    split <;> exact .inl rfl
  | _ =>
    simp only [dispatch, hd]
    exact .inl rfl

theorem decByte_plen (P : Config.Params) (b : Byte) (d : Dec) :
    (decByte P b d).dec.plen = d.plen ∨ (decByte P b d).dec.plen.toNat ≤ 251 := by
  rcases decByte_cases P b d with ⟨-, -, h⟩ | ⟨-, -, h⟩ | ⟨-, h⟩ <;> rw [h]
  · exact .inl rfl
  · exact .inl rfl
  · exact dispatch_plen P b { d with esc := false }

/-- An operation of another unit leaves the decoder as it is (10_state.md R20). -/
theorem exec_keeps_dec {i : Instr} (hdec : unitOf i ≠ .dec) (hall : unitOf i ≠ .all) (h : exec i s = .next t) :
    t.dec = s.dec := by
  rw [exec_eq_withUnit hall h]
  cases hu : unitOf i with
  | dec => exact absurd hu hdec
  | _ => rfl

/-- No operation but RESET writes a payload length that does not fit. -/
theorem exec_plen {i : Instr} (hi : i ≠ .reset) (h : exec i s = .next t) :
    t.dec.plen = s.dec.plen ∨ t.dec.plen.toNat ≤ 251 := by
  have hall : unitOf i ≠ .all := by
    cases i with
    | reset => exact absurd rfl hi
    | _ => nofun
  by_cases hdec : unitOf i = .dec
  · rcases exec_of_unitOf_dec hdec with rfl | ⟨b, hb⟩
    · cases h
      exact .inl rfl
    · rw [hb] at h
      cases h
      exact decByte_plen Config.params b s.dec
  · exact .inl (congrArg Dec.plen (exec_keeps_dec hdec hall h))

/-- Settles O50: the clauses are the decoder's invariant, read state by state. -/
theorem reachableDecoderInvariants : Obligations.ReachableDecoderInvariants := by
  refine ⟨fun s hs => ?_, fun i s t => exec_plen⟩
  have hd := hs.inv.dec
  have hpar : ∀ n, 2 ≤ s.dec.dstate.code.toNat ∧ s.dec.dstate.code.toNat ≤ 7 → s.dec.received.length = n →
      s.dec.ck.par = decide (n % 2 = 1) := by
    rintro n hst rfl
    exact hd.par_eq hst
  refine ⟨DState.code_le _, hd.plen_le, hd.idx_lt, hd.idx_eq, fun h => ?_, fun h => ?_, fun h => ?_, fun h => ?_,
    fun h => ?_, fun h => ?_⟩
  · exact hpar 1 (by rw [h]; decide) (by rw [Dec.received, h]; rfl)
  · exact hpar 2 (by rw [h]; decide) (by rw [Dec.received, h]; rfl)
  · exact hpar 3 (by rw [h]; decide) (by rw [Dec.received, h]; rfl)
  · exact hpar 4 (by rw [h]; decide) (by rw [Dec.received, h]; rfl)
  · exact hpar 5 (by rw [h]; decide) (by rw [Dec.received, h]; rfl)
  · exact hpar _ (by rw [h]; decide) (received_length_awaitingData hd h)

end Sys2Proof.Machine

/-! ## The rules of the decoder's states -/

namespace Sys2Proof.Machine

variable {b : Byte} {d : Dec} {s : State}

/-- Settles O29: step 1 comes before dispatch, so no state's handler sees the byte. -/
theorem startResynchronizes : Obligations.StartResynchronizes := by
  intro s he
  have hstart : decByte Config.params 0x2B s.dec = resync s.dec := decByte_start _ he
  rw [exec_decByte, hstart, State.applyDec, resync_event_toList, resync_emit, Option.toList_none, List.append_nil]
  rfl

/-- Settles O30: step 2 comes before dispatch too. -/
theorem escapeArms : Obligations.EscapeArms := by
  intro s he
  have hesc : decByte Config.params 0x2D s.dec = quietly { s.dec with esc := true } := decByte_esc _ he
  rw [exec_decByte, hesc, State.applyDec_quietly]

/-- Settles O31. -/
theorem startAndDoneIgnoreLiterals : Obligations.StartAndDoneIgnoreLiterals :=
  fun _ _ hst hl => exec_decByte_quietly hl (dispatch_ignored hst)

/-- An accepted command byte starts a frame where a command is awaited (42_decoder.md R155). -/
theorem exec_decByte_command (hst : s.dec.dstate = .awaitingCmd) (hl : isLiteral b s.dec.esc = true)
    (hb : accepted Config.params b = true) :
    exec (.decByte b) s = .next { s with
      dec := { s.dec with esc := false, cmd := b, ck := ckUpdate ⟨0xFFFF, false⟩ b, dstate := .awaitingLen }
      dgValid := false } :=
  exec_decByte_quietly hl (Eq.trans (dispatch_awaitingCmd hst) (onCmd_of_accepted _ hb))

/-- Settles O32: the two branches of AwaitingCmd's handler. -/
theorem awaitingCmdRule : Obligations.AwaitingCmdRule := by
  intro b s hst hl
  split
  · next h => exact exec_decByte_command hst hl ((accepted_params_iff b).mpr h)
  · next h =>
    exact exec_decByte_drop hl
      (Eq.trans (dispatch_awaitingCmd hst) (onCmd_of_not_accepted _ (mt (accepted_params_iff b).mp h)))

/-- Settles O56: the ten codes are accepted, and none of them is a marker. -/
theorem commandBytesStartAFrame : Obligations.CommandBytesStartAFrame := by
  intro s hst after
  have hrow : ∀ c, c ≠ Config.START → c ≠ Config.ESC → accepted Config.params c = true →
      exec (.decByte c) s = .next (after c) :=
    fun c hs he hc => exec_decByte_command hst (isLiteral_of_ne hs he _) hc
  refine ⟨hrow 0x01 ?_ ?_ ?_, hrow 0x02 ?_ ?_ ?_, hrow 0x03 ?_ ?_ ?_, hrow 0x04 ?_ ?_ ?_, hrow 0x05 ?_ ?_ ?_,
    hrow 0x06 ?_ ?_ ?_, hrow 0x07 ?_ ?_ ?_, hrow 0x08 ?_ ?_ ?_, hrow 0x3C ?_ ?_ ?_, hrow 0x00 ?_ ?_ ?_⟩ <;> decide

/-- AwaitingLen, for every value of the parameters (R156). -/
theorem decByte_awaitingLen (P : Config.Params) (hst : d.dstate = .awaitingLen) (hl : isLiteral b d.esc = true) :
    decByte P b d = onLen P b { d with esc := false } :=
  (decByte_literal P hl).trans (dispatch_awaitingLen hst)

/-- Settles O33: the two branches of AwaitingLen's handler; a length of 4 or more is never short. -/
theorem awaitingLenRule : Obligations.AwaitingLenRule := by
  refine ⟨fun P b d hst hl => ?_, fun b => ⟨plenOf_toNat b, ?_⟩, fun b s hst hl hb => ?_⟩
  · rw [decByte_awaitingLen P hst hl]
    split
    · next h => exact onLen_of_short _ h
    · next h => exact onLen_of_not_short _ h
  · rw [← plenOf_toNat]
    exact plenOf_le b
  · have hlong : ¬ b.toNat < 4 := Nat.not_lt.mpr hb
    have hplen : plenOf b = b - 4 := if_neg hlong
    rw [← hplen]
    exact exec_decByte_quietly hl
      (Eq.trans (dispatch_awaitingLen hst) (onLen_of_not_short _ fun ⟨hshort, _⟩ => hlong hshort))

theorem setId3_eq (id : Word32) (b : Byte) : setId3 id b = b ++ id.extractLsb' 0 24 := by
  apply BitVec.eq_of_getLsbD_eq
  intro i hi
  simp only [setId3, join32, id2, id1, id0, BitVec.getLsbD_extractLsb', BitVec.getLsbD_append]
  grind

theorem setId2_eq (id : Word32) (b : Byte) : setId2 id b = id.extractLsb' 24 8 ++ b ++ id.extractLsb' 0 16 := by
  apply BitVec.eq_of_getLsbD_eq
  intro i hi
  simp only [setId2, join32, id3, id1, id0, BitVec.getLsbD_extractLsb', BitVec.getLsbD_append]
  grind

theorem setId1_eq (id : Word32) (b : Byte) : setId1 id b = id.extractLsb' 16 16 ++ b ++ id.extractLsb' 0 8 := by
  apply BitVec.eq_of_getLsbD_eq
  intro i hi
  simp only [setId1, join32, id3, id2, id0, BitVec.getLsbD_extractLsb', BitVec.getLsbD_append]
  grind

theorem setId0_eq (id : Word32) (b : Byte) : setId0 id b = id.extractLsb' 8 24 ++ b := by
  apply BitVec.eq_of_getLsbD_eq
  intro i hi
  simp only [setId0, join32, id3, id2, id1, BitVec.getLsbD_extractLsb', BitVec.getLsbD_append]
  grind

/-- Settles O34: a write of one identifier byte keeps the bits on either side of it. -/
theorem identifierBytesRule : Obligations.IdentifierBytesRule := by
  intro b s hl
  refine ⟨fun hst => ?_, fun hst => ?_, fun hst => ?_, fun hst => ?_⟩
  · rw [← setId3_eq]
    exact exec_decByte_quietly hl (dispatch_awaitingId0 hst)
  · rw [← setId2_eq]
    exact exec_decByte_quietly hl (dispatch_awaitingId1 hst)
  · rw [← setId1_eq]
    exact exec_decByte_quietly hl (dispatch_awaitingId2 hst)
  · rw [← setId0_eq]
    exact exec_decByte_quietly hl (dispatch_awaitingId3 hst)

/-- Settles O35: the new buffer is the old one with the byte at `DEC.idx`. -/
theorem awaitingDataRule : Obligations.AwaitingDataRule := by
  refine ⟨fun b s hst hl hidx => ⟨s.dec.DBUF.setIfInBounds s.dec.idx.toNat b,
    exec_decByte_quietly hl (dispatch_awaitingData hst), by bv_omega, fun i => ?_⟩,
    fun s hs hst => ⟨hs.dec.idx_lt hst, hs.dec.plen_le (by rw [hst]; decide)⟩⟩
  simp [Vector.getElem_setIfInBounds, eq_comm]

/-- Settles O36: AwaitingCrc0's handler, and the two branches of AwaitingCrc1's. -/
theorem receivedChecksumRule : Obligations.ReceivedChecksumRule := by
  intro b s hl F rx dg
  refine ⟨fun hst => exec_decByte_quietly hl (dispatch_awaitingCrc0 hst), fun hst hrx => ?_, fun hst hrx => ?_⟩
  · exact ⟨_, exec_decByte_emission hl (Eq.trans (dispatch_awaitingCrc1 hst) (onCrc1_of_eq hrx)), rfl,
      dgOut_eq_datagram _⟩
  · exact exec_decByte_drop hl (Eq.trans (dispatch_awaitingCrc1 hst) (onCrc1_of_ne hrx))

/-- Settles O38: after DEC.RESET no frame is in progress, so a START abandons none. -/
theorem decResetRule : Obligations.DecResetRule := by
  refine ⟨wordWithoutOperand_of_mem fun _ => by simp [fixedRows], exec_decReset, fun s => ?_⟩
  have hstart := startResynchronizes (s.setDec { s.dec with dstate := .awaitingStart, esc := false }) rfl
  refine ⟨_, (runInstrs_cons_next (held_decReset s) (exec_decReset s) _).trans
    ((runInstrs_singleton (held_decByte _ _)).trans hstart), rfl, by simp⟩

end Sys2Proof.Machine

/-! ## The payload accessors

Each accessor tests the payload's length (43_payload_accessors.md R200) and reads the bytes big-endian. A call of it by
the host adds the result to `accessed` and changes nothing else (log 6). -/

namespace Sys2Proof.Machine

variable {dg : Datagram}

/-! ### The calls -/

@[simp] theorem exec_asU8 (dg : Datagram) (s : State) : exec (.asU8 dg) s = .next (s.returnAcc (asU8 dg)) := rfl

@[simp] theorem exec_asU16 (dg : Datagram) (s : State) : exec (.asU16 dg) s = .next (s.returnAcc (asU16 dg)) := rfl

@[simp] theorem exec_asI32 (dg : Datagram) (s : State) : exec (.asI32 dg) s = .next (s.returnAcc (asI32 dg)) := rfl

@[simp] theorem exec_asF32 (dg : Datagram) (s : State) : exec (.asF32 dg) s = .next (s.returnAcc (asF32 dg)) := rfl

/-! ### The results on a payload of the accessor's length -/

theorem asU8_of_payload {b : Byte} (h : dg.payload = [b]) : asU8 dg = .okU8 b.toNat := by
  rw [asU8, h]

theorem asU16_of_payload {p0 p1 : Byte} (h : dg.payload = [p0, p1]) : asU16 dg = .okU16 (join16 p0 p1).toNat := by
  rw [asU16, h]

theorem asI32_of_payload {p0 p1 p2 p3 : Byte} (h : dg.payload = [p0, p1, p2, p3]) :
    asI32 dg = .okI32 (join32 p0 p1 p2 p3).toInt := by
  rw [asI32, h]

theorem asF32_of_payload {p0 p1 p2 p3 : Byte} (h : dg.payload = [p0, p1, p2, p3]) :
    asF32 dg = .okF32 (join32 p0 p1 p2 p3) := by
  rw [asF32, h]

/-! ### WRONG_LENGTH on every other payload (R200) -/

theorem asU8_of_length_ne (h : dg.payload.length ≠ 1) : asU8 dg = .wrongLength := by
  unfold asU8
  split
  · next hp => exact absurd (congrArg List.length hp) h
  · rfl

theorem asU16_of_length_ne (h : dg.payload.length ≠ 2) : asU16 dg = .wrongLength := by
  unfold asU16
  split
  · next hp => exact absurd (congrArg List.length hp) h
  · rfl

theorem asI32_of_length_ne (h : dg.payload.length ≠ 4) : asI32 dg = .wrongLength := by
  unfold asI32
  split
  · next hp => exact absurd (congrArg List.length hp) h
  · rfl

theorem asF32_of_length_ne (h : dg.payload.length ≠ 4) : asF32 dg = .wrongLength := by
  unfold asF32
  split
  · next hp => exact absurd (congrArg List.length hp) h
  · rfl

/-! ### The four bytes as a two's complement number (R203, log 16) -/

/-- Bit 31 is set exactly when the high byte is 128 or more. -/
theorem join32_toNat_lt_iff (b3 b2 b1 b0 : Byte) : (join32 b3 b2 b1 b0).toNat < 2 ^ 31 ↔ b3.toNat < 128 := by
  rw [join32_toNat]
  omega

theorem join32_toInt (b3 b2 b1 b0 : Byte) :
    (join32 b3 b2 b1 b0).toInt =
      if b3.toNat < 128 then (b3.toNat * 2 ^ 24 + b2.toNat * 2 ^ 16 + b1.toNat * 2 ^ 8 + b0.toNat : Int)
      else b3.toNat * 2 ^ 24 + b2.toNat * 2 ^ 16 + b1.toNat * 2 ^ 8 + b0.toNat - 2 ^ 32 := by
  have hnat := join32_toNat b3 b2 b1 b0
  have hsign := join32_toNat_lt_iff b3 b2 b1 b0
  rw [BitVec.toInt_eq_toNat_cond]
  split <;> split <;> omega

/-! ### The fields of the four bytes' binary32 pattern (R204, log 16) -/

theorem f32Sign_join32 (b3 b2 b1 b0 : Byte) : f32Sign (join32 b3 b2 b1 b0) = decide (128 ≤ b3.toNat) := by
  have hmsb : f32Sign (join32 b3 b2 b1 b0) = (join32 b3 b2 b1 b0).msb := (BitVec.msb_eq_getLsbD_last _).symm
  rw [hmsb, BitVec.msb_eq_decide, decide_eq_decide, ← not_lt, ← not_lt]
  exact not_congr (join32_toNat_lt_iff b3 b2 b1 b0)

theorem f32Exponent_join32 (b3 b2 b1 b0 : Byte) :
    (f32Exponent (join32 b3 b2 b1 b0)).toNat = b3.toNat % 128 * 2 + b2.toNat / 128 := by
  rw [f32Exponent, BitVec.extractLsb'_toNat, Nat.shiftRight_eq_div_pow, join32_toNat]
  omega

theorem f32Fraction_join32 (b3 b2 b1 b0 : Byte) :
    (f32Fraction (join32 b3 b2 b1 b0)).toNat = b2.toNat % 128 * 2 ^ 16 + b1.toNat * 2 ^ 8 + b0.toNat := by
  rw [f32Fraction, BitVec.extractLsb'_toNat, Nat.shiftRight_zero, join32_toNat]
  omega

/-! ### The accessors' rules -/

/-- Settles O57: the payload of one byte, and every other. -/
theorem asU8Rule : Obligations.AsU8Rule := by
  refine fun dg s => ⟨fun b hp => ?_, fun hlen => ?_⟩
  · rw [exec_asU8, asU8_of_payload hp, State.returnAcc]
  · rw [exec_asU8, asU8_of_length_ne hlen, State.returnAcc]

/-- Settles O58: the joined pair is `p0*256 + p1`. -/
theorem asU16Rule : Obligations.AsU16Rule := by
  refine fun dg s => ⟨fun p0 p1 hp => ?_, fun hlen => ?_⟩
  · rw [exec_asU16, asU16_of_payload hp, join16_toNat, State.returnAcc]
  · rw [exec_asU16, asU16_of_length_ne hlen, State.returnAcc]

/-- Settles O59: the two's complement value turns on the high byte alone. -/
theorem asI32Rule : Obligations.AsI32Rule := by
  refine fun dg s => ⟨fun p0 p1 p2 p3 hp => ?_, fun hlen => ?_⟩
  · rw [exec_asI32, asI32_of_payload hp, join32_toInt, State.returnAcc]
  · rw [exec_asI32, asI32_of_length_ne hlen, State.returnAcc]

/-- Settles O60: the result is the joined pattern itself, and its three fields are those of the four bytes. -/
theorem asF32Rule : Obligations.AsF32Rule := by
  refine fun dg s => ⟨fun p0 p1 p2 p3 hp => ⟨?_, f32Sign_join32 p0 p1 p2 p3, f32Exponent_join32 p0 p1 p2 p3,
    f32Fraction_join32 p0 p1 p2 p3⟩, fun hlen => ?_⟩
  · rw [exec_asF32, asF32_of_payload hp, join32, State.returnAcc]
  · rw [exec_asF32, asF32_of_length_ne hlen, State.returnAcc]

end Sys2Proof.Machine

/-! ## Block control

IDLE is never held and changes nothing, so a run may leave it out (44_block_control.md R220); what RESET specifies is
enough for the decoder to receive the next frame (R221). -/

namespace Sys2Proof.Machine

/-- Operations that are held are no IDLE (60_exceptions.md R310). -/
theorem filter_ne_idle_of_held {ws : List Instr} {s : State} (hw : ∀ w ∈ ws, held w s = true) :
    ws.filter (· ≠ .idle) = ws := by
  refine List.filter_eq_self.mpr fun w hmem => decide_eq_true fun hidle => ?_
  have hheld := hw w hmem
  rw [hidle, held_idle] at hheld
  cases hheld

/-- A run without its IDLE steps is the same run: an IDLE that is a step leaves the state, and the others are steps of
both (R220). -/
theorem runInstrs_filter_ne_idle (l : List Instr) (s : State) :
    runInstrs l s = runInstrs (l.filter (· ≠ .idle)) s := by
  induction hn : l.length generalizing l s with
  | zero => rw [List.length_eq_zero_iff.mp hn, List.filter_nil]
  | succ n ih =>
    rcases takeFirst_cases (fun i => held i s) l with ⟨-, hw⟩ | ⟨ws, i, is, -, rfl, hw, hi⟩
    · rw [filter_ne_idle_of_held hw]
    · have hlen : (ws ++ is).length = n := by simp at hn ⊢; omega
      by_cases hidle : i = .idle
      · rw [runInstrs_held_next hw hi (by rw [hidle, exec_idle]), ih _ s hlen, List.filter_append, List.filter_append,
          List.filter_cons_of_neg (by simpa using hidle)]
      · rw [List.filter_append, List.filter_cons_of_pos (by simpa using hidle), filter_ne_idle_of_held hw]
        cases he : exec i s with
        | next t =>
          rw [runInstrs_held_next hw hi he, runInstrs_held_next hw hi he, ih _ t hlen, List.filter_append,
            filter_ne_idle_of_held hw]
        | fault f => cases f
        | refused r => rw [runInstrs_held_refused hw hi he, runInstrs_held_refused hw hi he]

/-- Settles O9. -/
theorem idleChangesNothingAnywhere : Obligations.IdleChangesNothingAnywhere := by
  refine ⟨wordWithoutOperand_of_mem fun _ => by simp [fixedRows], exec_idle, fun p s hrst hnone => ?_,
    runInstrs_filter_ne_idle⟩
  rw [runCycle, ops_of_not_rst hrst, if_pos hnone, runInstrs_singleton (held_idle s)]

/-- Settles O39: the nine bytes are the frame of their Datagram, which a decoder with no escape pending receives
whatever its other registers hold. -/
theorem resetRule : Obligations.ResetRule := by
  refine ⟨wordWithoutOperand_of_mem fun _ => by simp [fixedRows], fun s => ?_⟩
  have hcycle : ∀ p : PortIn, p.rst = true → runCycle p s = .next s.resetBlock := fun p hrst => by
    rw [runCycle, ops_of_rst hrst, runInstrs_singleton (held_reset s), exec_reset]
  have hframe : frame Config.params ⟨0x01, 0x400F015B, []⟩ =
      [0x2B, 0x01, 0x04, 0x40, 0x0F, 0x01, 0x5B, 0x58, 0xB4] := by decide +kernel
  have hvalid : validDatagram Config.params ⟨0x01, 0x400F015B, []⟩ = true := by decide
  obtain ⟨u, hrun, hemitted, -⟩ := feedingAFrameEmitsItsDatagram _ s.resetBlock hvalid rfl
  rw [hframe] at hrun
  exact ⟨_, exec_reset s, rfl, rfl, rfl, rfl, rfl, rfl, rfl, rfl, rfl, rfl, rfl, hcycle, u, hrun, hemitted⟩

end Sys2Proof.Machine

/-! ## Held activity in steps and runs

A step is told by the port activity that it takes up, past any number that are held; with nothing to take up it is IDLE
(00_scope.md R16; 60_exceptions.md R310; log 2). -/

namespace Sys2Proof.Machine

/-- Held port activity is an operation that is held, never a reserved word or a cycle. -/
theorem heldInput_iff (x : Input) (s : State) :
    heldInput x s = true ↔ ∃ c i, x = .code c ∧ decode c = .ok i ∧ held i s = true := by
  constructor
  · intro hx
    cases x with
    | cycle p => cases hx
    | code c =>
      cases hd : decode c with
      | ok i => exact ⟨c, i, rfl, hd, heldInput_code hd ▸ hx⟩
      | error e =>
        rw [heldInput_rejected hd] at hx
        cases hx
  · rintro ⟨c, i, rfl, hd, hi⟩
    rw [heldInput_code hd, hi]

section
variable {s : State} {rest : List Input}

theorem step_of_takeEnabled_none (h : takeEnabled s s.pending = none) : step s = .next (s.beginStep s.pending) := by
  rw [step, h, exec_idle]

theorem step_of_takeEnabled_code {c : Code} {i : Instr} (h : takeEnabled s s.pending = some (.code c, rest))
    (hd : decode c = .ok i) : step s = exec i (s.beginStep rest) := by
  simp only [step, h, hd]

theorem step_of_takeEnabled_rejected {c : Code} {e : Reject} (h : takeEnabled s s.pending = some (.code c, rest))
    (hd : decode c = .error e) : step s = .refused (refusalOf e) := by
  simp only [step, h, hd]

theorem step_of_takeEnabled_cycle {p : PortIn} (h : takeEnabled s s.pending = some (.cycle p, rest)) :
    step s = runCycle p (s.beginStep rest) := by
  simp only [step, h]

end

/-- Settles O7. What a step takes up decides it: nothing where all are held, else the first activity that is not. -/
theorem heldOperationWaitsOnItsPort : Obligations.HeldOperationWaitsOnItsPort := by
  refine ⟨held_iff, heldInput_iff, fun s hall => step_of_takeEnabled_none (takeFirst_all_held hall), ?_,
    fun _ _ _ _ rest hw hi he => runInstrs_held_next hw hi he rest, fun _ _ hw => runInstrs_all_held hw⟩
  intro s ws x rest hp hw hx
  have htake : takeEnabled s s.pending = some (x, ws ++ rest) := hp ▸ takeFirst_append_held hw hx rest
  refine ⟨?_, ?_, ?_⟩
  · rintro c i rfl hd
    exact step_of_takeEnabled_code htake hd
  · rintro c e rfl hd
    exact step_of_takeEnabled_rejected htake hd
  · rintro p rfl
    exact step_of_takeEnabled_cycle htake

end Sys2Proof.Machine

/-! ## The stray escape

An ESC before a frame makes the frame's START the literal of an escape pair. The rest of the frame is in wire form too,
so it has no unescaped START (70_reset_and_hazards.md R411). -/

namespace Sys2Proof.Machine

/-- Outside a frame the wire form of any bytes is ignored and leaves the decoder as it was (42_decoder.md R152, R154,
R164). -/
theorem decFeed_flatMap_escByte_ignored {P : Config.Params} {d : Dec} (hesc : d.esc = false)
    (hst : d.dstate = .awaitingStart ∨ d.dstate = .done) (bs : List Byte) :
    decFeed P (bs.flatMap escByte) d = (d, [], []) := by
  induction bs with
  | nil => rfl
  | cons b bs ih => rw [List.flatMap_cons, decFeed_escByte_quietly hesc (dispatch_ignored hst), ih]

/-- A frame behind an ESC is the wire form of START and the frame's content (30_encoding.md R81, R82). -/
theorem esc_cons_frame {P : Config.Params} (hP : P.escapeCrc = true) (dg : Datagram) :
    Config.ESC :: frame P dg =
      (Config.START :: (logicalBytes dg ++ [hiByte (frameCk dg).crc, loByte (frameCk dg).crc])).flatMap escByte := by
  rw [frame_of_escapeCrc hP, List.flatMap_cons]
  rfl

/-- Settles O45: the swallowed frame is wire form fed outside a frame; after DEC.RESET no escape is pending, and the
frame is received (42_decoder.md R167; 41_encoder.md R131). -/
theorem strayEscapeSwallowsTheNextFrame : Obligations.StrayEscapeSwallowsTheNextFrame := by
  intro dg s hv hesc hst
  constructor
  · have hignored : decFeed Config.params (Config.ESC :: frame Config.params dg) s.dec = (s.dec, [], []) := by
      rw [esc_cons_frame rfl, decFeed_flatMap_escByte_ignored hesc hst]
    obtain ⟨v, hrun⟩ := runInstrs_decBytes (Config.ESC :: frame Config.params dg) s
    rw [hignored] at hrun
    exact ⟨_, hrun, List.append_nil _, List.append_nil _, rfl⟩
  · let escaped := s.applyDec (decByte Config.params Config.ESC s.dec)
    let cleared := escaped.setDec { escaped.dec with dstate := .awaitingStart, esc := false }
    have hshown : cleared.emitted = s.emitted := by
      simp [cleared, escaped, decByte_esc _ hesc]
    obtain ⟨t, hrun, hemitted, -⟩ := feedingAFrameEmitsItsDatagram dg cleared hv rfl
    refine ⟨t, ?_, hshown ▸ hemitted⟩
    exact (runInstrs_cons_next (held_decByte _ s) (exec_decByte _ s) _).trans
      ((runInstrs_cons_next (held_decReset _) (exec_decReset _) _).trans hrun)

end Sys2Proof.Machine

/-! ## Checksum bytes that are not escaped

With ESCAPE_CRC false the decoder meets the two checksum bytes as they are: first what two such bytes do to a decoder
that awaits the checksum, case by case, then what that makes of a whole frame (70_reset_and_hazards.md R414). -/

namespace Sys2Proof.Machine

variable {P : Config.Params} {d : Dec} {dg : Datagram} {b hi lo : Byte}

/-- With no escape pending the literals are the bytes that are no marker (42_decoder.md R153). -/
theorem isLiteral_of_not_marker (h : ¬ (b = Config.START ∨ b = Config.ESC)) : isLiteral b false = true :=
  isLiteral_of_ne (not_or.mp h).1 (not_or.mp h).2 false

/-- A literal with no escape pending is dispatched in the decoder as it is (R153). -/
theorem decByte_unescaped_literal (hesc : d.esc = false) (hl : isLiteral b false = true) :
    decByte P b d = dispatch P b d := by
  rw [decByte_literal P (hesc ▸ hl), ← hesc]

/-! ### The two bytes -/

section
variable (hesc : d.esc = false) (hst : d.dstate = .awaitingCrc0)
include hesc hst

/-- A high byte that is no marker is received (R162). -/
theorem decFeed_crcHi_literal (hhi : isLiteral hi false = true) (rest : List Byte) :
    decFeed P (hi :: rest) d = decFeed P rest (onCrc0 hi d).dec := by
  rw [decFeed_cons, decByte_unescaped_literal hesc hhi, dispatch_awaitingCrc0 hst]
  rfl

/-- START as the high byte abandons the frame; the low byte then comes where a command is awaited, where nothing is
emitted (R151, R155). -/
theorem decFeed_crcHi_start (lo : Byte) :
    ∃ (e : Dec) (after : List Event),
      decFeed P [Config.START, lo] d = (e, [], .frameAbandoned .awaitingCrc0 :: after) := by
  have hquiet : (decByte P lo (resync d).dec).emit = none :=
    Option.eq_none_iff_forall_ne_some.mpr fun dg h => by
      obtain ⟨hcrc1, -⟩ := decByte_emit h
      cases hcrc1
  have hevent : (resync d).event.toList = [.frameAbandoned .awaitingCrc0] := by simp [resync_event_toList, hst]
  refine ⟨(decByte P lo (resync d).dec).dec, (decByte P lo (resync d).dec).event.toList, ?_⟩
  rw [decFeed_cons, decByte_start P hesc, decFeed_cons, hquiet, hevent]
  simp

/-- ESC as the high byte makes the low byte a literal in its place (R152, R162). -/
theorem decFeed_crcHi_esc (lo : Byte) : decFeed P [Config.ESC, lo] d = ((onCrc0 lo d).dec, [], []) := by
  have hd : { d with esc := false } = d := by rw [← hesc]
  have hlo : decByte P lo { d with esc := true } = onCrc0 lo d := by
    rw [decByte_literal P (isLiteral_escaped lo)]
    exact (congrArg (dispatch P lo) hd).trans (dispatch_awaitingCrc0 hst)
  rw [decFeed_cons, decByte_esc P hesc, decFeed_cons, quietly_dec, hlo]
  rfl

/-- START as the low byte abandons the frame for a new one (R151). -/
theorem decFeed_crcLo_start (hhi : isLiteral hi false = true) :
    decFeed P [hi, Config.START] d =
      ({ (onCrc0 hi d).dec with dstate := .awaitingCmd }, [], [.frameAbandoned .awaitingCrc1]) := by
  rw [decFeed_crcHi_literal hesc hst hhi, decFeed_cons, decByte_start P (d := (onCrc0 hi d).dec) hesc]
  rfl

/-- ESC as the low byte is left pending (R152). -/
theorem decFeed_crcLo_esc (hhi : isLiteral hi false = true) :
    decFeed P [hi, Config.ESC] d = ({ (onCrc0 hi d).dec with esc := true }, [], []) := by
  rw [decFeed_crcHi_literal hesc hst hhi, decFeed_cons, decByte_esc P (d := (onCrc0 hi d).dec) hesc]
  rfl

/-- Two literals that make the checksum computed let the Datagram out (R163, R166). -/
theorem decFeed_crc_literals (hhi : isLiteral hi false = true) (hlo : isLiteral lo false = true)
    (hcrc : join16 hi lo = (ckFinish d.ck).crc) :
    decFeed P [hi, lo] d =
      ({ (onCrc0 hi d).dec with ck := ckFinish d.ck, dstate := .done }, [d.datagram], []) := by
  rw [decFeed_crcHi_literal hesc hst hhi, decFeed_cons,
    decByte_unescaped_literal (d := (onCrc0 hi d).dec) hesc hlo, dispatch_awaitingCrc1 rfl,
    onCrc1_of_eq (d := (onCrc0 hi d).dec) hcrc]
  rfl

end

/-! ### The frame -/

section
variable (hP : P.escapeCrc = false) (hv : validDatagram P dg = true) (hesc : d.esc = false)
include hP hv hesc

/-- Such a frame is its body, which leaves the decoder awaiting the checksum, and the two bytes as they are
(30_encoding.md R84). -/
theorem decFeed_frame_unescapedCrc :
    ∃ e : Dec, e.esc = false ∧ e.dstate = .awaitingCrc0 ∧ e.datagram = dg ∧
      (ckFinish e.ck).crc = (frameCk dg).crc ∧ ∀ r, decFeed P [hiByte (frameCk dg).crc, loByte (frameCk dg).crc] e = r →
        decFeed P (frame P dg) d = (r.1, r.2.1, (resync d).event.toList ++ r.2.2) := by
  obtain ⟨e, heesc, hst, hdg, hck, hfeed⟩ := decFeed_frame_body hv hesc
  refine ⟨e, heesc, hst, hdg, by rw [hck, frameCk], ?_⟩
  rintro _ rfl
  rw [← hfeed]
  simp [frame, escCrcByte, hP]

theorem decFeed_frame_crcHi_start (hhi : hiByte (frameCk dg).crc = Config.START) :
    ∃ (e : Dec) (after : List Event), decFeed P (frame P dg) d =
      (e, [], (resync d).event.toList ++ .frameAbandoned .awaitingCrc0 :: after) := by
  obtain ⟨a, ha, hst, -, -, hframe⟩ := decFeed_frame_unescapedCrc hP hv hesc
  obtain ⟨e, after, h⟩ := decFeed_crcHi_start (P := P) ha hst (loByte (frameCk dg).crc)
  exact ⟨e, after, hframe _ (hhi ▸ h)⟩

theorem decFeed_frame_crcHi_esc (hhi : hiByte (frameCk dg).crc = Config.ESC) :
    ∃ e : Dec, decFeed P (frame P dg) d = (e, [], (resync d).event.toList) ∧
      e.dstate = .awaitingCrc1 ∧ e.esc = false ∧ e.rxcrcHi = loByte (frameCk dg).crc := by
  obtain ⟨a, ha, hst, -, -, hframe⟩ := decFeed_frame_unescapedCrc hP hv hesc
  have h := hframe _ (hhi ▸ decFeed_crcHi_esc ha hst _)
  rw [List.append_nil] at h
  exact ⟨_, h, rfl, ha, rfl⟩

theorem decFeed_frame_crcLo_start (hhi : isLiteral (hiByte (frameCk dg).crc) false = true)
    (hlo : loByte (frameCk dg).crc = Config.START) :
    ∃ e : Dec, decFeed P (frame P dg) d = (e, [], (resync d).event.toList ++ [.frameAbandoned .awaitingCrc1]) ∧
      e.dstate = .awaitingCmd ∧ e.esc = false := by
  obtain ⟨a, ha, hst, -, -, hframe⟩ := decFeed_frame_unescapedCrc hP hv hesc
  have h := hframe _ (hlo ▸ decFeed_crcLo_start ha hst hhi)
  exact ⟨_, h, rfl, ha⟩

theorem decFeed_frame_crcLo_esc (hhi : isLiteral (hiByte (frameCk dg).crc) false = true)
    (hlo : loByte (frameCk dg).crc = Config.ESC) :
    ∃ e : Dec, decFeed P (frame P dg) d = (e, [], (resync d).event.toList) ∧
      e.dstate = .awaitingCrc1 ∧ e.esc = true := by
  obtain ⟨a, ha, hst, -, -, hframe⟩ := decFeed_frame_unescapedCrc hP hv hesc
  have h := hframe _ (hlo ▸ decFeed_crcLo_esc ha hst hhi)
  rw [List.append_nil] at h
  exact ⟨_, h, rfl, rfl⟩

theorem decFeed_frame_crc_literals (hhi : isLiteral (hiByte (frameCk dg).crc) false = true)
    (hlo : isLiteral (loByte (frameCk dg).crc) false = true) :
    ∃ e : Dec, decFeed P (frame P dg) d = (e, [dg], (resync d).event.toList) ∧ e.dstate = .done ∧ e.esc = false := by
  obtain ⟨a, ha, hst, hdg, hck, hframe⟩ := decFeed_frame_unescapedCrc hP hv hesc
  have hcrc : join16 (hiByte (frameCk dg).crc) (loByte (frameCk dg).crc) = (ckFinish a.ck).crc := by
    rw [join16_hiByte_loByte, hck]
  have h := hframe _ (decFeed_crc_literals ha hst hhi hlo hcrc)
  rw [List.append_nil, hdg] at h
  exact ⟨_, h, rfl, ha⟩

/-- A marker among the two bytes loses the Datagram, whichever of them it is. -/
theorem decFeed_frame_marker_emits_nothing
    (h : (hiByte (frameCk dg).crc = Config.START ∨ hiByte (frameCk dg).crc = Config.ESC) ∨
      (loByte (frameCk dg).crc = Config.START ∨ loByte (frameCk dg).crc = Config.ESC)) :
    (decFeed P (frame P dg) d).2.1 = [] := by
  by_cases hhi : hiByte (frameCk dg).crc = Config.START ∨ hiByte (frameCk dg).crc = Config.ESC
  · rcases hhi with hs | he
    · obtain ⟨e, after, hr⟩ := decFeed_frame_crcHi_start hP hv hesc hs
      rw [hr]
    · obtain ⟨e, hr, -⟩ := decFeed_frame_crcHi_esc hP hv hesc he
      rw [hr]
  · have hl := isLiteral_of_not_marker hhi
    rcases h.resolve_left hhi with hs | he
    · obtain ⟨e, hr, -⟩ := decFeed_frame_crcLo_start hP hv hesc hl hs
      rw [hr]
    · obtain ⟨e, hr, -⟩ := decFeed_frame_crcLo_esc hP hv hesc hl he
      rw [hr]

end

/-- A Read with no payload is valid whatever the parameters (30_encoding.md R87; 41_encoder.md R120). -/
theorem validDatagram_read (P : Config.Params) (id : Word32) : validDatagram P ⟨0x01, id, []⟩ = true := by
  simp [validDatagram, definedCmd, Command.all, Command.code]

/-- The frame of 95_test_vectors.md V35: its low checksum byte is START. -/
theorem decFeed_frame_lowStart (hP : P.escapeCrc = false) (hesc : d.esc = false) (hst : d.dstate = .awaitingStart) :
    ∃ e : Dec, decFeed P (frame P ⟨0x01, 0x0000003E, []⟩) d = (e, [], [.frameAbandoned .awaitingCrc1]) ∧
      e.dstate = .awaitingCmd := by
  obtain ⟨e, h, he, -⟩ := decFeed_frame_crcLo_start hP (validDatagram_read P 0x0000003E) hesc
    (by decide +kernel) (by decide +kernel)
  rw [resync_event_toList, hst] at h
  exact ⟨e, h, he⟩

/-- The frames of 95_test_vectors.md V36: the first's high checksum byte is ESC, and the second, which has no marker
there, abandons it. -/
theorem decFeed_frame_highEsc_then_frame (hP : P.escapeCrc = false) (hesc : d.esc = false)
    (hst : d.dstate = .awaitingStart) :
    (decFeed P (frame P ⟨0x01, 0x00000079, []⟩ ++ frame P ⟨0x01, 0x400F015B, []⟩) d).2 =
      ([⟨0x01, 0x400F015B, []⟩], [.frameAbandoned .awaitingCrc1]) := by
  obtain ⟨c, hlost, hc, hcesc, -⟩ := decFeed_frame_crcHi_esc hP (validDatagram_read P 0x00000079) hesc
    (by decide +kernel)
  obtain ⟨e, hreceived, -⟩ := decFeed_frame_crc_literals hP (validDatagram_read P 0x400F015B) hcesc
    (by decide +kernel) (by decide +kernel)
  rw [resync_event_toList, hst] at hlost
  rw [resync_event_toList, hc] at hreceived
  rw [decFeed_append, hlost, hreceived]
  rfl

/-- Settles O46: the high byte is START, ESC or a literal, and after a literal the low byte is one of these; each case is
one of the lemmas above. -/
theorem unescapedCrcLosesFrames : Obligations.UnescapedCrcLosesFrames := by
  constructor
  · intro P dg d hP hv hesc hi lo marker r before
    have hbefore : before = (resync d).event.toList := (resync_event_toList d).symm
    rw [hbefore]
    refine ⟨decFeed_frame_marker_emits_nothing hP hv hesc, fun hhi hlo => ?_, fun hhi hlo => ?_, fun hhi hlo => ?_,
      fun hhi => ?_, fun hhi => ?_⟩
    · obtain ⟨e, (hr : r = _), hst, he⟩ := decFeed_frame_crc_literals hP hv hesc (isLiteral_of_not_marker hhi)
        (isLiteral_of_not_marker hlo)
      exact hr ▸ ⟨rfl, hst, he⟩
    · obtain ⟨e, (hr : r = _), hst, he⟩ := decFeed_frame_crcLo_start hP hv hesc (isLiteral_of_not_marker hhi) hlo
      exact hr ▸ ⟨rfl, hst, he⟩
    · obtain ⟨e, (hr : r = _), hst, he⟩ := decFeed_frame_crcLo_esc hP hv hesc (isLiteral_of_not_marker hhi) hlo
      exact hr ▸ ⟨rfl, hst, he⟩
    · obtain ⟨e, after, (hr : r = _)⟩ := decFeed_frame_crcHi_start hP hv hesc hhi
      exact ⟨after, by rw [hr]⟩
    · obtain ⟨e, (hr : r = _), hst, he, hrx⟩ := decFeed_frame_crcHi_esc hP hv hesc hhi
      exact hr ▸ ⟨rfl, hst, he, hrx⟩
  · intro P d hP hst hesc
    obtain ⟨e, hr, he⟩ := decFeed_frame_lowStart hP hesc hst
    rw [hr]
    exact ⟨rfl, he, decFeed_frame_highEsc_then_frame hP hesc hst⟩

end Sys2Proof.Machine
